-- ==== Sys2Proof/Word.lean ====
section
/-! DEFINITION. The machine's word types (spec/00_scope.md R7). -/

namespace Sys2Proof

/-- The data width: A, X, Y, SP, P and a memory byte are 8 bits (R7). Arithmetic wraps mod 256 (R11). -/
abbrev Byte := BitVec 8

/-- The address width: PC and every address are 16 bits (R7). Arithmetic wraps mod 65536 (R11). -/
abbrev Addr := BitVec 16

end Sys2Proof
end

