-- ==== Sys2Proof/Syntax.lean ====
section
/-! DEFINITION. Instructions as syntax: the 56 mnemonics, the 13 addressing modes, and one constructor of `Instr` for
each of the 151 rows of spec/opcode_table.json (spec/30_encoding.md R302, R306). -/

namespace Sys2Proof

/-- The 56 mnemonics (R306), "closed tagged-variant enumerations, never open strings" (R302). -/
inductive Mnemonic where
  | LDA | LDX | LDY | STA | STX | STY
  | TAX | TAY | TXA | TYA | TSX | TXS
  | ADC | SBC | CMP | CPX | CPY
  | AND | ORA | EOR | BIT
  | ASL | LSR | ROL | ROR
  | INC | DEC | INX | INY | DEX | DEY
  | BPL | BMI | BVC | BVS | BCC | BCS | BNE | BEQ | JMP | JSR | RTS
  | PHA | PHP | PLA | PLP
  | BRK | RTI | CLC | SEC | CLI | SEI | CLD | SED | CLV | NOP
deriving DecidableEq, Repr

/-- The 13 addressing modes (R302). -/
inductive Mode where
  | implicit | accumulator | immediate | zeroPage | zeroPageX | zeroPageY | relative
  | absolute | absoluteX | absoluteY | indirect | xIndexedIndirect | indirectYIndexed
deriving DecidableEq, Repr

/-- The operand bytes of an instruction (R303, R304): none, the byte b1, or the little-endian word b2 ++ b1. -/
inductive OperandField where
  | none
  | byte (b : Byte)
  | word (w : Addr)
deriving DecidableEq, Repr

/-- An instruction as its table row sees it: mnemonic, addressing mode and operand bytes. Not every combination is an
instruction (R309); `Parts.wf` says which are. -/
structure Parts where
  mnemonic : Mnemonic
  mode     : Mode
  operand  : OperandField
deriving DecidableEq, Repr

/-- The instructions, one constructor for each (mnemonic, mode) pair of R306. The name is the mnemonic with the mode's
short name: Acc, Imm, Zp, ZpX, ZpY, Abs, AbsX, AbsY, Ind, IndX (XIndexedIndirect), IndY (IndirectYIndexed); Implicit and
Relative add nothing. An argument is the operand as R304 assembles it: an immediate `v`, a zero-page address or pointer
`b`, a branch offset `off`, an absolute address or pointer `w`. -/
inductive Instr where
  | ldaImm (v : Byte) | ldaZp (b : Byte) | ldaZpX (b : Byte) | ldaAbs (w : Addr)
  | ldaAbsX (w : Addr) | ldaAbsY (w : Addr) | ldaIndX (b : Byte) | ldaIndY (b : Byte)
  | ldxImm (v : Byte) | ldxZp (b : Byte) | ldxZpY (b : Byte) | ldxAbs (w : Addr)
  | ldxAbsY (w : Addr)
  | ldyImm (v : Byte) | ldyZp (b : Byte) | ldyZpX (b : Byte) | ldyAbs (w : Addr)
  | ldyAbsX (w : Addr)
  | staZp (b : Byte) | staZpX (b : Byte) | staAbs (w : Addr) | staAbsX (w : Addr)
  | staAbsY (w : Addr) | staIndX (b : Byte) | staIndY (b : Byte)
  | stxZp (b : Byte) | stxZpY (b : Byte) | stxAbs (w : Addr)
  | styZp (b : Byte) | styZpX (b : Byte) | styAbs (w : Addr)
  | tax
  | tay
  | txa
  | tya
  | tsx
  | txs
  | adcImm (v : Byte) | adcZp (b : Byte) | adcZpX (b : Byte) | adcAbs (w : Addr)
  | adcAbsX (w : Addr) | adcAbsY (w : Addr) | adcIndX (b : Byte) | adcIndY (b : Byte)
  | sbcImm (v : Byte) | sbcZp (b : Byte) | sbcZpX (b : Byte) | sbcAbs (w : Addr)
  | sbcAbsX (w : Addr) | sbcAbsY (w : Addr) | sbcIndX (b : Byte) | sbcIndY (b : Byte)
  | cmpImm (v : Byte) | cmpZp (b : Byte) | cmpZpX (b : Byte) | cmpAbs (w : Addr)
  | cmpAbsX (w : Addr) | cmpAbsY (w : Addr) | cmpIndX (b : Byte) | cmpIndY (b : Byte)
  | cpxImm (v : Byte) | cpxZp (b : Byte) | cpxAbs (w : Addr)
  | cpyImm (v : Byte) | cpyZp (b : Byte) | cpyAbs (w : Addr)
  | andImm (v : Byte) | andZp (b : Byte) | andZpX (b : Byte) | andAbs (w : Addr)
  | andAbsX (w : Addr) | andAbsY (w : Addr) | andIndX (b : Byte) | andIndY (b : Byte)
  | oraImm (v : Byte) | oraZp (b : Byte) | oraZpX (b : Byte) | oraAbs (w : Addr)
  | oraAbsX (w : Addr) | oraAbsY (w : Addr) | oraIndX (b : Byte) | oraIndY (b : Byte)
  | eorImm (v : Byte) | eorZp (b : Byte) | eorZpX (b : Byte) | eorAbs (w : Addr)
  | eorAbsX (w : Addr) | eorAbsY (w : Addr) | eorIndX (b : Byte) | eorIndY (b : Byte)
  | bitZp (b : Byte) | bitAbs (w : Addr)
  | aslAcc | aslZp (b : Byte) | aslZpX (b : Byte) | aslAbs (w : Addr)
  | aslAbsX (w : Addr)
  | lsrAcc | lsrZp (b : Byte) | lsrZpX (b : Byte) | lsrAbs (w : Addr)
  | lsrAbsX (w : Addr)
  | rolAcc | rolZp (b : Byte) | rolZpX (b : Byte) | rolAbs (w : Addr)
  | rolAbsX (w : Addr)
  | rorAcc | rorZp (b : Byte) | rorZpX (b : Byte) | rorAbs (w : Addr)
  | rorAbsX (w : Addr)
  | incZp (b : Byte) | incZpX (b : Byte) | incAbs (w : Addr) | incAbsX (w : Addr)
  | decZp (b : Byte) | decZpX (b : Byte) | decAbs (w : Addr) | decAbsX (w : Addr)
  | inx
  | iny
  | dex
  | dey
  | bpl (off : Byte)
  | bmi (off : Byte)
  | bvc (off : Byte)
  | bvs (off : Byte)
  | bcc (off : Byte)
  | bcs (off : Byte)
  | bne (off : Byte)
  | beq (off : Byte)
  | jmpAbs (w : Addr) | jmpInd (w : Addr)
  | jsrAbs (w : Addr)
  | rts
  | pha
  | php
  | pla
  | plp
  | brk
  | rti
  | clc
  | sec
  | cli
  | sei
  | cld
  | sed
  | clv
  | nop
deriving DecidableEq, Repr

/-- The table row a constructor stands for, with its operand (R306). -/
def Instr.parts : Instr → Parts
  | .ldaImm v => ⟨.LDA, .immediate, .byte v⟩
  | .ldaZp b => ⟨.LDA, .zeroPage, .byte b⟩
  | .ldaZpX b => ⟨.LDA, .zeroPageX, .byte b⟩
  | .ldaAbs w => ⟨.LDA, .absolute, .word w⟩
  | .ldaAbsX w => ⟨.LDA, .absoluteX, .word w⟩
  | .ldaAbsY w => ⟨.LDA, .absoluteY, .word w⟩
  | .ldaIndX b => ⟨.LDA, .xIndexedIndirect, .byte b⟩
  | .ldaIndY b => ⟨.LDA, .indirectYIndexed, .byte b⟩
  | .ldxImm v => ⟨.LDX, .immediate, .byte v⟩
  | .ldxZp b => ⟨.LDX, .zeroPage, .byte b⟩
  | .ldxZpY b => ⟨.LDX, .zeroPageY, .byte b⟩
  | .ldxAbs w => ⟨.LDX, .absolute, .word w⟩
  | .ldxAbsY w => ⟨.LDX, .absoluteY, .word w⟩
  | .ldyImm v => ⟨.LDY, .immediate, .byte v⟩
  | .ldyZp b => ⟨.LDY, .zeroPage, .byte b⟩
  | .ldyZpX b => ⟨.LDY, .zeroPageX, .byte b⟩
  | .ldyAbs w => ⟨.LDY, .absolute, .word w⟩
  | .ldyAbsX w => ⟨.LDY, .absoluteX, .word w⟩
  | .staZp b => ⟨.STA, .zeroPage, .byte b⟩
  | .staZpX b => ⟨.STA, .zeroPageX, .byte b⟩
  | .staAbs w => ⟨.STA, .absolute, .word w⟩
  | .staAbsX w => ⟨.STA, .absoluteX, .word w⟩
  | .staAbsY w => ⟨.STA, .absoluteY, .word w⟩
  | .staIndX b => ⟨.STA, .xIndexedIndirect, .byte b⟩
  | .staIndY b => ⟨.STA, .indirectYIndexed, .byte b⟩
  | .stxZp b => ⟨.STX, .zeroPage, .byte b⟩
  | .stxZpY b => ⟨.STX, .zeroPageY, .byte b⟩
  | .stxAbs w => ⟨.STX, .absolute, .word w⟩
  | .styZp b => ⟨.STY, .zeroPage, .byte b⟩
  | .styZpX b => ⟨.STY, .zeroPageX, .byte b⟩
  | .styAbs w => ⟨.STY, .absolute, .word w⟩
  | .tax => ⟨.TAX, .implicit, .none⟩
  | .tay => ⟨.TAY, .implicit, .none⟩
  | .txa => ⟨.TXA, .implicit, .none⟩
  | .tya => ⟨.TYA, .implicit, .none⟩
  | .tsx => ⟨.TSX, .implicit, .none⟩
  | .txs => ⟨.TXS, .implicit, .none⟩
  | .adcImm v => ⟨.ADC, .immediate, .byte v⟩
  | .adcZp b => ⟨.ADC, .zeroPage, .byte b⟩
  | .adcZpX b => ⟨.ADC, .zeroPageX, .byte b⟩
  | .adcAbs w => ⟨.ADC, .absolute, .word w⟩
  | .adcAbsX w => ⟨.ADC, .absoluteX, .word w⟩
  | .adcAbsY w => ⟨.ADC, .absoluteY, .word w⟩
  | .adcIndX b => ⟨.ADC, .xIndexedIndirect, .byte b⟩
  | .adcIndY b => ⟨.ADC, .indirectYIndexed, .byte b⟩
  | .sbcImm v => ⟨.SBC, .immediate, .byte v⟩
  | .sbcZp b => ⟨.SBC, .zeroPage, .byte b⟩
  | .sbcZpX b => ⟨.SBC, .zeroPageX, .byte b⟩
  | .sbcAbs w => ⟨.SBC, .absolute, .word w⟩
  | .sbcAbsX w => ⟨.SBC, .absoluteX, .word w⟩
  | .sbcAbsY w => ⟨.SBC, .absoluteY, .word w⟩
  | .sbcIndX b => ⟨.SBC, .xIndexedIndirect, .byte b⟩
  | .sbcIndY b => ⟨.SBC, .indirectYIndexed, .byte b⟩
  | .cmpImm v => ⟨.CMP, .immediate, .byte v⟩
  | .cmpZp b => ⟨.CMP, .zeroPage, .byte b⟩
  | .cmpZpX b => ⟨.CMP, .zeroPageX, .byte b⟩
  | .cmpAbs w => ⟨.CMP, .absolute, .word w⟩
  | .cmpAbsX w => ⟨.CMP, .absoluteX, .word w⟩
  | .cmpAbsY w => ⟨.CMP, .absoluteY, .word w⟩
  | .cmpIndX b => ⟨.CMP, .xIndexedIndirect, .byte b⟩
  | .cmpIndY b => ⟨.CMP, .indirectYIndexed, .byte b⟩
  | .cpxImm v => ⟨.CPX, .immediate, .byte v⟩
  | .cpxZp b => ⟨.CPX, .zeroPage, .byte b⟩
  | .cpxAbs w => ⟨.CPX, .absolute, .word w⟩
  | .cpyImm v => ⟨.CPY, .immediate, .byte v⟩
  | .cpyZp b => ⟨.CPY, .zeroPage, .byte b⟩
  | .cpyAbs w => ⟨.CPY, .absolute, .word w⟩
  | .andImm v => ⟨.AND, .immediate, .byte v⟩
  | .andZp b => ⟨.AND, .zeroPage, .byte b⟩
  | .andZpX b => ⟨.AND, .zeroPageX, .byte b⟩
  | .andAbs w => ⟨.AND, .absolute, .word w⟩
  | .andAbsX w => ⟨.AND, .absoluteX, .word w⟩
  | .andAbsY w => ⟨.AND, .absoluteY, .word w⟩
  | .andIndX b => ⟨.AND, .xIndexedIndirect, .byte b⟩
  | .andIndY b => ⟨.AND, .indirectYIndexed, .byte b⟩
  | .oraImm v => ⟨.ORA, .immediate, .byte v⟩
  | .oraZp b => ⟨.ORA, .zeroPage, .byte b⟩
  | .oraZpX b => ⟨.ORA, .zeroPageX, .byte b⟩
  | .oraAbs w => ⟨.ORA, .absolute, .word w⟩
  | .oraAbsX w => ⟨.ORA, .absoluteX, .word w⟩
  | .oraAbsY w => ⟨.ORA, .absoluteY, .word w⟩
  | .oraIndX b => ⟨.ORA, .xIndexedIndirect, .byte b⟩
  | .oraIndY b => ⟨.ORA, .indirectYIndexed, .byte b⟩
  | .eorImm v => ⟨.EOR, .immediate, .byte v⟩
  | .eorZp b => ⟨.EOR, .zeroPage, .byte b⟩
  | .eorZpX b => ⟨.EOR, .zeroPageX, .byte b⟩
  | .eorAbs w => ⟨.EOR, .absolute, .word w⟩
  | .eorAbsX w => ⟨.EOR, .absoluteX, .word w⟩
  | .eorAbsY w => ⟨.EOR, .absoluteY, .word w⟩
  | .eorIndX b => ⟨.EOR, .xIndexedIndirect, .byte b⟩
  | .eorIndY b => ⟨.EOR, .indirectYIndexed, .byte b⟩
  | .bitZp b => ⟨.BIT, .zeroPage, .byte b⟩
  | .bitAbs w => ⟨.BIT, .absolute, .word w⟩
  | .aslAcc => ⟨.ASL, .accumulator, .none⟩
  | .aslZp b => ⟨.ASL, .zeroPage, .byte b⟩
  | .aslZpX b => ⟨.ASL, .zeroPageX, .byte b⟩
  | .aslAbs w => ⟨.ASL, .absolute, .word w⟩
  | .aslAbsX w => ⟨.ASL, .absoluteX, .word w⟩
  | .lsrAcc => ⟨.LSR, .accumulator, .none⟩
  | .lsrZp b => ⟨.LSR, .zeroPage, .byte b⟩
  | .lsrZpX b => ⟨.LSR, .zeroPageX, .byte b⟩
  | .lsrAbs w => ⟨.LSR, .absolute, .word w⟩
  | .lsrAbsX w => ⟨.LSR, .absoluteX, .word w⟩
  | .rolAcc => ⟨.ROL, .accumulator, .none⟩
  | .rolZp b => ⟨.ROL, .zeroPage, .byte b⟩
  | .rolZpX b => ⟨.ROL, .zeroPageX, .byte b⟩
  | .rolAbs w => ⟨.ROL, .absolute, .word w⟩
  | .rolAbsX w => ⟨.ROL, .absoluteX, .word w⟩
  | .rorAcc => ⟨.ROR, .accumulator, .none⟩
  | .rorZp b => ⟨.ROR, .zeroPage, .byte b⟩
  | .rorZpX b => ⟨.ROR, .zeroPageX, .byte b⟩
  | .rorAbs w => ⟨.ROR, .absolute, .word w⟩
  | .rorAbsX w => ⟨.ROR, .absoluteX, .word w⟩
  | .incZp b => ⟨.INC, .zeroPage, .byte b⟩
  | .incZpX b => ⟨.INC, .zeroPageX, .byte b⟩
  | .incAbs w => ⟨.INC, .absolute, .word w⟩
  | .incAbsX w => ⟨.INC, .absoluteX, .word w⟩
  | .decZp b => ⟨.DEC, .zeroPage, .byte b⟩
  | .decZpX b => ⟨.DEC, .zeroPageX, .byte b⟩
  | .decAbs w => ⟨.DEC, .absolute, .word w⟩
  | .decAbsX w => ⟨.DEC, .absoluteX, .word w⟩
  | .inx => ⟨.INX, .implicit, .none⟩
  | .iny => ⟨.INY, .implicit, .none⟩
  | .dex => ⟨.DEX, .implicit, .none⟩
  | .dey => ⟨.DEY, .implicit, .none⟩
  | .bpl off => ⟨.BPL, .relative, .byte off⟩
  | .bmi off => ⟨.BMI, .relative, .byte off⟩
  | .bvc off => ⟨.BVC, .relative, .byte off⟩
  | .bvs off => ⟨.BVS, .relative, .byte off⟩
  | .bcc off => ⟨.BCC, .relative, .byte off⟩
  | .bcs off => ⟨.BCS, .relative, .byte off⟩
  | .bne off => ⟨.BNE, .relative, .byte off⟩
  | .beq off => ⟨.BEQ, .relative, .byte off⟩
  | .jmpAbs w => ⟨.JMP, .absolute, .word w⟩
  | .jmpInd w => ⟨.JMP, .indirect, .word w⟩
  | .jsrAbs w => ⟨.JSR, .absolute, .word w⟩
  | .rts => ⟨.RTS, .implicit, .none⟩
  | .pha => ⟨.PHA, .implicit, .none⟩
  | .php => ⟨.PHP, .implicit, .none⟩
  | .pla => ⟨.PLA, .implicit, .none⟩
  | .plp => ⟨.PLP, .implicit, .none⟩
  | .brk => ⟨.BRK, .implicit, .none⟩
  | .rti => ⟨.RTI, .implicit, .none⟩
  | .clc => ⟨.CLC, .implicit, .none⟩
  | .sec => ⟨.SEC, .implicit, .none⟩
  | .cli => ⟨.CLI, .implicit, .none⟩
  | .sei => ⟨.SEI, .implicit, .none⟩
  | .cld => ⟨.CLD, .implicit, .none⟩
  | .sed => ⟨.SED, .implicit, .none⟩
  | .clv => ⟨.CLV, .implicit, .none⟩
  | .nop => ⟨.NOP, .implicit, .none⟩

/-- The instruction's mnemonic (R306, rows). -/
def Instr.mnemonic (i : Instr) : Mnemonic := i.parts.mnemonic

/-- The instruction's addressing mode (R306, columns). -/
def Instr.mode (i : Instr) : Mode := i.parts.mode

/-- The instruction's operand bytes (R303, R304). -/
def Instr.operand (i : Instr) : OperandField := i.parts.operand

end Sys2Proof
end

