-- ==== Sys2Proof/Machine/Bits.lean ====
section
/-! DEFINITION. Bit-field, byte-order and extension helpers (spec/00_scope.md R10, R11), and the length of an instruction
by its addressing mode (spec/30_encoding.md R301). -/

namespace Sys2Proof

/-- `lo8(w) = w[7:0]` (R10). -/
def lo8 (w : Addr) : Byte := w.setWidth 8

/-- `hi8(w) = w[15:8]` (R10). -/
def hi8 (w : Addr) : Byte := (w >>> 8).setWidth 8

/-- `hi ++ lo = hi*256 + lo` (R10). -/
def join (hi lo : Byte) : Addr := BitVec.ofNat 16 (hi.toNat * 256 + lo.toNat)

/-- `zext_16(v)` (R10). -/
def zext16 (v : Byte) : Addr := v.setWidth 16

/-- `sext_16(v)` (R10). -/
def sext16 (v : Byte) : Addr := v.signExtend 16

/-- The number of operand bytes of a mode (R301). -/
def Mode.operandBytes : Mode → Nat
  | .implicit | .accumulator => 0
  | .immediate | .zeroPage | .zeroPageX | .zeroPageY | .relative | .xIndexedIndirect | .indirectYIndexed => 1
  | .absolute | .absoluteX | .absoluteY | .indirect => 2

/-- The instruction length of a mode: `1 + operandBytes(mode)` (R301). -/
def Mode.length (m : Mode) : Nat := 1 + m.operandBytes

/-- The operand's bytes in memory order, low byte first (R304, R345). -/
def OperandField.bytes : OperandField → List Byte
  | .none => []
  | .byte b => [b]
  | .word w => [lo8 w, hi8 w]

end Sys2Proof
end

