-- ==== Sys2Proof/WellFormed.lean ====
section
/-! DEFINITION. Which (mnemonic, mode, operand) triples are instructions (spec/30_encoding.md R301, R306, R309). -/

namespace Sys2Proof

/-- The addressing modes the table defines for a mnemonic: the filled cells of its row in R306. -/
def Mnemonic.modes : Mnemonic → List Mode
  | .LDA | .ADC | .SBC | .CMP | .AND | .ORA | .EOR =>
    [.immediate, .zeroPage, .zeroPageX, .absolute, .absoluteX, .absoluteY, .xIndexedIndirect, .indirectYIndexed]
  | .LDX =>
    [.immediate, .zeroPage, .zeroPageY, .absolute, .absoluteY]
  | .LDY =>
    [.immediate, .zeroPage, .zeroPageX, .absolute, .absoluteX]
  | .STA =>
    [.zeroPage, .zeroPageX, .absolute, .absoluteX, .absoluteY, .xIndexedIndirect, .indirectYIndexed]
  | .STX =>
    [.zeroPage, .zeroPageY, .absolute]
  | .STY =>
    [.zeroPage, .zeroPageX, .absolute]
  | .TAX | .TAY | .TXA | .TYA | .TSX | .TXS | .INX | .INY | .DEX | .DEY | .RTS | .PHA | .PHP | .PLA
  | .PLP | .BRK | .RTI | .CLC | .SEC | .CLI | .SEI | .CLD | .SED | .CLV | .NOP =>
    [.implicit]
  | .CPX | .CPY =>
    [.immediate, .zeroPage, .absolute]
  | .BIT =>
    [.zeroPage, .absolute]
  | .ASL | .LSR | .ROL | .ROR =>
    [.accumulator, .zeroPage, .zeroPageX, .absolute, .absoluteX]
  | .INC | .DEC =>
    [.zeroPage, .zeroPageX, .absolute, .absoluteX]
  | .BPL | .BMI | .BVC | .BVS | .BCC | .BCS | .BNE | .BEQ =>
    [.relative]
  | .JMP =>
    [.absolute, .indirect]
  | .JSR =>
    [.absolute]

/-- Check 1: the pair has a table entry (R309: "not every (mnemonic, mode) combination is defined"). -/
def Parts.pairDefined (p : Parts) : Bool := p.mnemonic.modes.contains p.mode

/-- Check 2: the operand has the number of bytes the mode takes (R301). -/
def Parts.operandFits (p : Parts) : Bool := p.operand.bytes.length == p.mode.operandBytes

/-- A well-formed instruction as its row sees it: both checks hold. -/
def Parts.wf (p : Parts) : Bool := p.pairDefined && p.operandFits

/-- A well-formed `Instr`. Every term of `Instr` is one (Sys2Proof/Laws/PerInstr.lean), since a constructor fixes the pair
and its argument the operand's width. -/
def Instr.wf (i : Instr) : Bool := i.parts.wf

end Sys2Proof
end

