-- ==== Sys2Proof/Decode.lean ====
section
/-! DEFINITION. The opcode table and its two lookups, the decoder, and the encoder (spec/30_encoding.md R300 to R312).
The table below is written from the grid by opcode byte (R307), the encoder's opcodes from the table by mnemonic and mode
(R306): a byte wrong in one of them breaks the round trip. -/

namespace Sys2Proof

/-- What follows the opcode byte, and the instruction it makes (R303, R304). -/
inductive Form where
  /-- No operand byte. -/
  | plain (i : Instr)
  /-- One operand byte b1. -/
  | byte (f : Byte → Instr)
  /-- Two operand bytes, the word b2 ++ b1, low byte first. -/
  | word (f : Addr → Instr)

/-- The instruction of a form, given the two bytes after the opcode (R303, R304). A byte it does not have is not used. -/
def Form.build (f : Form) (b1 b2 : Byte) : Instr :=
  match f with
  | .plain i => i
  | .byte g => g b1
  | .word g => g (join b2 b1)

/-- One entry of the opcode table (R305). -/
structure OpcodeRow where
  opcode   : Byte
  mnemonic : Mnemonic
  mode     : Mode
  form     : Form

/-- Rows 0x and 1x of the grid of R307. -/
def opcodeRows0 : List OpcodeRow := [
  ⟨0x00, .BRK, .implicit, .plain .brk⟩,
  ⟨0x01, .ORA, .xIndexedIndirect, .byte .oraIndX⟩,
  ⟨0x05, .ORA, .zeroPage, .byte .oraZp⟩,
  ⟨0x06, .ASL, .zeroPage, .byte .aslZp⟩,
  ⟨0x08, .PHP, .implicit, .plain .php⟩,
  ⟨0x09, .ORA, .immediate, .byte .oraImm⟩,
  ⟨0x0A, .ASL, .accumulator, .plain .aslAcc⟩,
  ⟨0x0D, .ORA, .absolute, .word .oraAbs⟩,
  ⟨0x0E, .ASL, .absolute, .word .aslAbs⟩,
  ⟨0x10, .BPL, .relative, .byte .bpl⟩,
  ⟨0x11, .ORA, .indirectYIndexed, .byte .oraIndY⟩,
  ⟨0x15, .ORA, .zeroPageX, .byte .oraZpX⟩,
  ⟨0x16, .ASL, .zeroPageX, .byte .aslZpX⟩,
  ⟨0x18, .CLC, .implicit, .plain .clc⟩,
  ⟨0x19, .ORA, .absoluteY, .word .oraAbsY⟩,
  ⟨0x1D, .ORA, .absoluteX, .word .oraAbsX⟩,
  ⟨0x1E, .ASL, .absoluteX, .word .aslAbsX⟩]

/-- Rows 2x and 3x of the grid of R307. -/
def opcodeRows2 : List OpcodeRow := [
  ⟨0x20, .JSR, .absolute, .word .jsrAbs⟩,
  ⟨0x21, .AND, .xIndexedIndirect, .byte .andIndX⟩,
  ⟨0x24, .BIT, .zeroPage, .byte .bitZp⟩,
  ⟨0x25, .AND, .zeroPage, .byte .andZp⟩,
  ⟨0x26, .ROL, .zeroPage, .byte .rolZp⟩,
  ⟨0x28, .PLP, .implicit, .plain .plp⟩,
  ⟨0x29, .AND, .immediate, .byte .andImm⟩,
  ⟨0x2A, .ROL, .accumulator, .plain .rolAcc⟩,
  ⟨0x2C, .BIT, .absolute, .word .bitAbs⟩,
  ⟨0x2D, .AND, .absolute, .word .andAbs⟩,
  ⟨0x2E, .ROL, .absolute, .word .rolAbs⟩,
  ⟨0x30, .BMI, .relative, .byte .bmi⟩,
  ⟨0x31, .AND, .indirectYIndexed, .byte .andIndY⟩,
  ⟨0x35, .AND, .zeroPageX, .byte .andZpX⟩,
  ⟨0x36, .ROL, .zeroPageX, .byte .rolZpX⟩,
  ⟨0x38, .SEC, .implicit, .plain .sec⟩,
  ⟨0x39, .AND, .absoluteY, .word .andAbsY⟩,
  ⟨0x3D, .AND, .absoluteX, .word .andAbsX⟩,
  ⟨0x3E, .ROL, .absoluteX, .word .rolAbsX⟩]

/-- Rows 4x and 5x of the grid of R307. -/
def opcodeRows4 : List OpcodeRow := [
  ⟨0x40, .RTI, .implicit, .plain .rti⟩,
  ⟨0x41, .EOR, .xIndexedIndirect, .byte .eorIndX⟩,
  ⟨0x45, .EOR, .zeroPage, .byte .eorZp⟩,
  ⟨0x46, .LSR, .zeroPage, .byte .lsrZp⟩,
  ⟨0x48, .PHA, .implicit, .plain .pha⟩,
  ⟨0x49, .EOR, .immediate, .byte .eorImm⟩,
  ⟨0x4A, .LSR, .accumulator, .plain .lsrAcc⟩,
  ⟨0x4C, .JMP, .absolute, .word .jmpAbs⟩,
  ⟨0x4D, .EOR, .absolute, .word .eorAbs⟩,
  ⟨0x4E, .LSR, .absolute, .word .lsrAbs⟩,
  ⟨0x50, .BVC, .relative, .byte .bvc⟩,
  ⟨0x51, .EOR, .indirectYIndexed, .byte .eorIndY⟩,
  ⟨0x55, .EOR, .zeroPageX, .byte .eorZpX⟩,
  ⟨0x56, .LSR, .zeroPageX, .byte .lsrZpX⟩,
  ⟨0x58, .CLI, .implicit, .plain .cli⟩,
  ⟨0x59, .EOR, .absoluteY, .word .eorAbsY⟩,
  ⟨0x5D, .EOR, .absoluteX, .word .eorAbsX⟩,
  ⟨0x5E, .LSR, .absoluteX, .word .lsrAbsX⟩]

/-- Rows 6x and 7x of the grid of R307. -/
def opcodeRows6 : List OpcodeRow := [
  ⟨0x60, .RTS, .implicit, .plain .rts⟩,
  ⟨0x61, .ADC, .xIndexedIndirect, .byte .adcIndX⟩,
  ⟨0x65, .ADC, .zeroPage, .byte .adcZp⟩,
  ⟨0x66, .ROR, .zeroPage, .byte .rorZp⟩,
  ⟨0x68, .PLA, .implicit, .plain .pla⟩,
  ⟨0x69, .ADC, .immediate, .byte .adcImm⟩,
  ⟨0x6A, .ROR, .accumulator, .plain .rorAcc⟩,
  ⟨0x6C, .JMP, .indirect, .word .jmpInd⟩,
  ⟨0x6D, .ADC, .absolute, .word .adcAbs⟩,
  ⟨0x6E, .ROR, .absolute, .word .rorAbs⟩,
  ⟨0x70, .BVS, .relative, .byte .bvs⟩,
  ⟨0x71, .ADC, .indirectYIndexed, .byte .adcIndY⟩,
  ⟨0x75, .ADC, .zeroPageX, .byte .adcZpX⟩,
  ⟨0x76, .ROR, .zeroPageX, .byte .rorZpX⟩,
  ⟨0x78, .SEI, .implicit, .plain .sei⟩,
  ⟨0x79, .ADC, .absoluteY, .word .adcAbsY⟩,
  ⟨0x7D, .ADC, .absoluteX, .word .adcAbsX⟩,
  ⟨0x7E, .ROR, .absoluteX, .word .rorAbsX⟩]

/-- Rows 8x and 9x of the grid of R307. -/
def opcodeRows8 : List OpcodeRow := [
  ⟨0x81, .STA, .xIndexedIndirect, .byte .staIndX⟩,
  ⟨0x84, .STY, .zeroPage, .byte .styZp⟩,
  ⟨0x85, .STA, .zeroPage, .byte .staZp⟩,
  ⟨0x86, .STX, .zeroPage, .byte .stxZp⟩,
  ⟨0x88, .DEY, .implicit, .plain .dey⟩,
  ⟨0x8A, .TXA, .implicit, .plain .txa⟩,
  ⟨0x8C, .STY, .absolute, .word .styAbs⟩,
  ⟨0x8D, .STA, .absolute, .word .staAbs⟩,
  ⟨0x8E, .STX, .absolute, .word .stxAbs⟩,
  ⟨0x90, .BCC, .relative, .byte .bcc⟩,
  ⟨0x91, .STA, .indirectYIndexed, .byte .staIndY⟩,
  ⟨0x94, .STY, .zeroPageX, .byte .styZpX⟩,
  ⟨0x95, .STA, .zeroPageX, .byte .staZpX⟩,
  ⟨0x96, .STX, .zeroPageY, .byte .stxZpY⟩,
  ⟨0x98, .TYA, .implicit, .plain .tya⟩,
  ⟨0x99, .STA, .absoluteY, .word .staAbsY⟩,
  ⟨0x9A, .TXS, .implicit, .plain .txs⟩,
  ⟨0x9D, .STA, .absoluteX, .word .staAbsX⟩]

/-- Rows Ax and Bx of the grid of R307. -/
def opcodeRowsA : List OpcodeRow := [
  ⟨0xA0, .LDY, .immediate, .byte .ldyImm⟩,
  ⟨0xA1, .LDA, .xIndexedIndirect, .byte .ldaIndX⟩,
  ⟨0xA2, .LDX, .immediate, .byte .ldxImm⟩,
  ⟨0xA4, .LDY, .zeroPage, .byte .ldyZp⟩,
  ⟨0xA5, .LDA, .zeroPage, .byte .ldaZp⟩,
  ⟨0xA6, .LDX, .zeroPage, .byte .ldxZp⟩,
  ⟨0xA8, .TAY, .implicit, .plain .tay⟩,
  ⟨0xA9, .LDA, .immediate, .byte .ldaImm⟩,
  ⟨0xAA, .TAX, .implicit, .plain .tax⟩,
  ⟨0xAC, .LDY, .absolute, .word .ldyAbs⟩,
  ⟨0xAD, .LDA, .absolute, .word .ldaAbs⟩,
  ⟨0xAE, .LDX, .absolute, .word .ldxAbs⟩,
  ⟨0xB0, .BCS, .relative, .byte .bcs⟩,
  ⟨0xB1, .LDA, .indirectYIndexed, .byte .ldaIndY⟩,
  ⟨0xB4, .LDY, .zeroPageX, .byte .ldyZpX⟩,
  ⟨0xB5, .LDA, .zeroPageX, .byte .ldaZpX⟩,
  ⟨0xB6, .LDX, .zeroPageY, .byte .ldxZpY⟩,
  ⟨0xB8, .CLV, .implicit, .plain .clv⟩,
  ⟨0xB9, .LDA, .absoluteY, .word .ldaAbsY⟩,
  ⟨0xBA, .TSX, .implicit, .plain .tsx⟩,
  ⟨0xBC, .LDY, .absoluteX, .word .ldyAbsX⟩,
  ⟨0xBD, .LDA, .absoluteX, .word .ldaAbsX⟩,
  ⟨0xBE, .LDX, .absoluteY, .word .ldxAbsY⟩]

/-- Rows Cx and Dx of the grid of R307. -/
def opcodeRowsC : List OpcodeRow := [
  ⟨0xC0, .CPY, .immediate, .byte .cpyImm⟩,
  ⟨0xC1, .CMP, .xIndexedIndirect, .byte .cmpIndX⟩,
  ⟨0xC4, .CPY, .zeroPage, .byte .cpyZp⟩,
  ⟨0xC5, .CMP, .zeroPage, .byte .cmpZp⟩,
  ⟨0xC6, .DEC, .zeroPage, .byte .decZp⟩,
  ⟨0xC8, .INY, .implicit, .plain .iny⟩,
  ⟨0xC9, .CMP, .immediate, .byte .cmpImm⟩,
  ⟨0xCA, .DEX, .implicit, .plain .dex⟩,
  ⟨0xCC, .CPY, .absolute, .word .cpyAbs⟩,
  ⟨0xCD, .CMP, .absolute, .word .cmpAbs⟩,
  ⟨0xCE, .DEC, .absolute, .word .decAbs⟩,
  ⟨0xD0, .BNE, .relative, .byte .bne⟩,
  ⟨0xD1, .CMP, .indirectYIndexed, .byte .cmpIndY⟩,
  ⟨0xD5, .CMP, .zeroPageX, .byte .cmpZpX⟩,
  ⟨0xD6, .DEC, .zeroPageX, .byte .decZpX⟩,
  ⟨0xD8, .CLD, .implicit, .plain .cld⟩,
  ⟨0xD9, .CMP, .absoluteY, .word .cmpAbsY⟩,
  ⟨0xDD, .CMP, .absoluteX, .word .cmpAbsX⟩,
  ⟨0xDE, .DEC, .absoluteX, .word .decAbsX⟩]

/-- Rows Ex and Fx of the grid of R307. -/
def opcodeRowsE : List OpcodeRow := [
  ⟨0xE0, .CPX, .immediate, .byte .cpxImm⟩,
  ⟨0xE1, .SBC, .xIndexedIndirect, .byte .sbcIndX⟩,
  ⟨0xE4, .CPX, .zeroPage, .byte .cpxZp⟩,
  ⟨0xE5, .SBC, .zeroPage, .byte .sbcZp⟩,
  ⟨0xE6, .INC, .zeroPage, .byte .incZp⟩,
  ⟨0xE8, .INX, .implicit, .plain .inx⟩,
  ⟨0xE9, .SBC, .immediate, .byte .sbcImm⟩,
  ⟨0xEA, .NOP, .implicit, .plain .nop⟩,
  ⟨0xEC, .CPX, .absolute, .word .cpxAbs⟩,
  ⟨0xED, .SBC, .absolute, .word .sbcAbs⟩,
  ⟨0xEE, .INC, .absolute, .word .incAbs⟩,
  ⟨0xF0, .BEQ, .relative, .byte .beq⟩,
  ⟨0xF1, .SBC, .indirectYIndexed, .byte .sbcIndY⟩,
  ⟨0xF5, .SBC, .zeroPageX, .byte .sbcZpX⟩,
  ⟨0xF6, .INC, .zeroPageX, .byte .incZpX⟩,
  ⟨0xF8, .SED, .implicit, .plain .sed⟩,
  ⟨0xF9, .SBC, .absoluteY, .word .sbcAbsY⟩,
  ⟨0xFD, .SBC, .absoluteX, .word .sbcAbsX⟩,
  ⟨0xFE, .INC, .absoluteX, .word .incAbsX⟩]

/-- The opcode table: the 151 defined opcodes (R306, R307), "built once, read-only thereafter" (R305). -/
def opcodeTable : List OpcodeRow :=
  opcodeRows0 ++ opcodeRows2 ++ opcodeRows4 ++ opcodeRows6 ++ opcodeRows8 ++ opcodeRowsA ++ opcodeRowsC ++ opcodeRowsE

/-- The table row of an opcode byte, `none` for the 105 illegal bytes (R305, R308). -/
def opcodeRow (op : Byte) : Option OpcodeRow := opcodeTable.find? (fun r => r.opcode == op)

/-- `Decode(op)` (R305): mnemonic, mode and length, or `none`. -/
def decodeOpcode (op : Byte) : Option (Mnemonic × Mode × Nat) :=
  (opcodeRow op).map fun r => (r.mnemonic, r.mode, r.mode.length)

/-- The byte of a (mnemonic, mode) pair in the table, `none` where the pair has none (R310). -/
def opcodeOf (mn : Mnemonic) (m : Mode) : Option Byte :=
  (opcodeTable.find? (fun r => r.mnemonic == mn && r.mode == m)).map OpcodeRow.opcode

/-- The decoder of the engine (spec/40_execute_cycle.md R402, R403): the instruction of an opcode byte and the two bytes
after it. Total; `none` exactly when the opcode byte is illegal. -/
def decodeAt (op b1 b2 : Byte) : Option Instr := (opcodeRow op).map fun r => r.form.build b1 b2

/-- Why a sequence of bytes does not begin with an instruction. -/
inductive DecodeError where
  /-- The opcode byte is one of the 105 illegal ones (R308). -/
  | unknownOpcode (op : Byte)
  /-- The sequence ends before the instruction does. The engine never sees this: its memory has no end (R303). -/
  | truncated
deriving DecidableEq, Repr

/-- The first instruction of a sequence of bytes, and the bytes after it (R300: the length is known from the first byte).
Total, rejecting by name. -/
def decode : List Byte → Except DecodeError (Instr × List Byte)
  | [] => .error .truncated
  | op :: rest =>
    match (opcodeRow op).map OpcodeRow.form with
    | none => .error (.unknownOpcode op)
    | some (.plain i) => .ok (i, rest)
    | some (.byte f) =>
      match rest with
      | b1 :: rest' => .ok (f b1, rest')
      | [] => .error .truncated
    | some (.word f) =>
      match rest with
      | b1 :: b2 :: rest' => .ok (f (join b2 b1), rest')
      | _ => .error .truncated

/-- The opcode byte of an instruction, from the table by mnemonic and mode (R306). -/
def Instr.opcode : Instr → Byte
  | .ldaImm _ => 0xA9
  | .ldaZp _ => 0xA5
  | .ldaZpX _ => 0xB5
  | .ldaAbs _ => 0xAD
  | .ldaAbsX _ => 0xBD
  | .ldaAbsY _ => 0xB9
  | .ldaIndX _ => 0xA1
  | .ldaIndY _ => 0xB1
  | .ldxImm _ => 0xA2
  | .ldxZp _ => 0xA6
  | .ldxZpY _ => 0xB6
  | .ldxAbs _ => 0xAE
  | .ldxAbsY _ => 0xBE
  | .ldyImm _ => 0xA0
  | .ldyZp _ => 0xA4
  | .ldyZpX _ => 0xB4
  | .ldyAbs _ => 0xAC
  | .ldyAbsX _ => 0xBC
  | .staZp _ => 0x85
  | .staZpX _ => 0x95
  | .staAbs _ => 0x8D
  | .staAbsX _ => 0x9D
  | .staAbsY _ => 0x99
  | .staIndX _ => 0x81
  | .staIndY _ => 0x91
  | .stxZp _ => 0x86
  | .stxZpY _ => 0x96
  | .stxAbs _ => 0x8E
  | .styZp _ => 0x84
  | .styZpX _ => 0x94
  | .styAbs _ => 0x8C
  | .tax => 0xAA
  | .tay => 0xA8
  | .txa => 0x8A
  | .tya => 0x98
  | .tsx => 0xBA
  | .txs => 0x9A
  | .adcImm _ => 0x69
  | .adcZp _ => 0x65
  | .adcZpX _ => 0x75
  | .adcAbs _ => 0x6D
  | .adcAbsX _ => 0x7D
  | .adcAbsY _ => 0x79
  | .adcIndX _ => 0x61
  | .adcIndY _ => 0x71
  | .sbcImm _ => 0xE9
  | .sbcZp _ => 0xE5
  | .sbcZpX _ => 0xF5
  | .sbcAbs _ => 0xED
  | .sbcAbsX _ => 0xFD
  | .sbcAbsY _ => 0xF9
  | .sbcIndX _ => 0xE1
  | .sbcIndY _ => 0xF1
  | .cmpImm _ => 0xC9
  | .cmpZp _ => 0xC5
  | .cmpZpX _ => 0xD5
  | .cmpAbs _ => 0xCD
  | .cmpAbsX _ => 0xDD
  | .cmpAbsY _ => 0xD9
  | .cmpIndX _ => 0xC1
  | .cmpIndY _ => 0xD1
  | .cpxImm _ => 0xE0
  | .cpxZp _ => 0xE4
  | .cpxAbs _ => 0xEC
  | .cpyImm _ => 0xC0
  | .cpyZp _ => 0xC4
  | .cpyAbs _ => 0xCC
  | .andImm _ => 0x29
  | .andZp _ => 0x25
  | .andZpX _ => 0x35
  | .andAbs _ => 0x2D
  | .andAbsX _ => 0x3D
  | .andAbsY _ => 0x39
  | .andIndX _ => 0x21
  | .andIndY _ => 0x31
  | .oraImm _ => 0x09
  | .oraZp _ => 0x05
  | .oraZpX _ => 0x15
  | .oraAbs _ => 0x0D
  | .oraAbsX _ => 0x1D
  | .oraAbsY _ => 0x19
  | .oraIndX _ => 0x01
  | .oraIndY _ => 0x11
  | .eorImm _ => 0x49
  | .eorZp _ => 0x45
  | .eorZpX _ => 0x55
  | .eorAbs _ => 0x4D
  | .eorAbsX _ => 0x5D
  | .eorAbsY _ => 0x59
  | .eorIndX _ => 0x41
  | .eorIndY _ => 0x51
  | .bitZp _ => 0x24
  | .bitAbs _ => 0x2C
  | .aslAcc => 0x0A
  | .aslZp _ => 0x06
  | .aslZpX _ => 0x16
  | .aslAbs _ => 0x0E
  | .aslAbsX _ => 0x1E
  | .lsrAcc => 0x4A
  | .lsrZp _ => 0x46
  | .lsrZpX _ => 0x56
  | .lsrAbs _ => 0x4E
  | .lsrAbsX _ => 0x5E
  | .rolAcc => 0x2A
  | .rolZp _ => 0x26
  | .rolZpX _ => 0x36
  | .rolAbs _ => 0x2E
  | .rolAbsX _ => 0x3E
  | .rorAcc => 0x6A
  | .rorZp _ => 0x66
  | .rorZpX _ => 0x76
  | .rorAbs _ => 0x6E
  | .rorAbsX _ => 0x7E
  | .incZp _ => 0xE6
  | .incZpX _ => 0xF6
  | .incAbs _ => 0xEE
  | .incAbsX _ => 0xFE
  | .decZp _ => 0xC6
  | .decZpX _ => 0xD6
  | .decAbs _ => 0xCE
  | .decAbsX _ => 0xDE
  | .inx => 0xE8
  | .iny => 0xC8
  | .dex => 0xCA
  | .dey => 0x88
  | .bpl _ => 0x10
  | .bmi _ => 0x30
  | .bvc _ => 0x50
  | .bvs _ => 0x70
  | .bcc _ => 0x90
  | .bcs _ => 0xB0
  | .bne _ => 0xD0
  | .beq _ => 0xF0
  | .jmpAbs _ => 0x4C
  | .jmpInd _ => 0x6C
  | .jsrAbs _ => 0x20
  | .rts => 0x60
  | .pha => 0x48
  | .php => 0x08
  | .pla => 0x68
  | .plp => 0x28
  | .brk => 0x00
  | .rti => 0x40
  | .clc => 0x18
  | .sec => 0x38
  | .cli => 0x58
  | .sei => 0x78
  | .cld => 0xD8
  | .sed => 0xF8
  | .clv => 0xB8
  | .nop => 0xEA

/-- The bytes of an instruction: its opcode, then its operand, low byte first (R300, R304). -/
def encode (i : Instr) : List Byte := i.opcode :: i.operand.bytes

/-- Byte `k` of a number, byte 0 the least significant. -/
def byteOf (w k : Nat) : Byte := BitVec.ofNat 8 (w / 256 ^ k)

/-- The decoder on an instruction's bits numbered as spec/opcode_table.json numbers them: bits 7..0 are the first byte,
bits 15..8 the second, bits 23..16 the third; every bit above `nbits` is 0. -/
def decodeTableWord (nbits w : Nat) : Option Instr :=
  let v := w % 2 ^ nbits
  decodeAt (byteOf v 0) (byteOf v 1) (byteOf v 2)

end Sys2Proof
end

