-- ==== Sys2Proof/Config.lean ====
section
/-! DEFINITION. The three behaviours the spec leaves open, as parameters with no value (spec/00_scope.md R8):
"A claim that does not fix a parameter must hold for every value of it". -/

namespace Sys2Proof

/-- The values of `P_PHP_B` (R8, spec/48_stack.md R1201): what bit 4 of the byte PHP pushes is. -/
inductive PhpB where
  /-- PHP pushes P's own bit 4. -/
  | verbatim
  /-- PHP pushes 1 in bit 4. -/
  | set
deriving DecidableEq, Repr, Inhabited

namespace Config

/-- `P_JMP_IND_WRAP` (R8, spec/30_encoding.md R325): whether `JMP ($xxFF)` fetches its high byte from `$xx00`.
DESIGN CHOICE, safe (log entry 1): a constant with no body, so a proof holds for both values. -/
opaque jmpIndWrap : Bool

/-- `P_ZP_PTR_WRAP` (R8, spec/30_encoding.md R326, R327): whether the zero-page pointer at 0xFF takes its high byte
from 0x0000 (true) or from 0x0100 (false).
DESIGN CHOICE, safe (log entry 2): a constant with no body, so a proof holds for both values. -/
opaque zpPtrWrap : Bool

/-- `P_PHP_B` (R8, spec/48_stack.md R1201).
DESIGN CHOICE, safe (log entry 3): a constant with no body, so a proof holds for both values. -/
opaque phpB : PhpB

end Config

end Sys2Proof
end

