-- ==== Sys2Proof/Machine/Flags.lean ====
section
/-! DEFINITION. The status byte P (spec/10_state.md R106 to R115) and every flag computation of the instruction rules. -/

namespace Sys2Proof.Machine

/-- The seven named flags of P (R106). Bit 5 has no name: it is always 1 (R107). -/
inductive Flag where
  | C | Z | I | D | B | V | N
deriving DecidableEq, Repr

/-- The bit of P a flag stands at (R106). -/
def Flag.bit : Flag → Nat
  | .C => 0 | .Z => 1 | .I => 2 | .D => 3 | .B => 4 | .V => 6 | .N => 7

/-- The byte with a 1 at the flag's bit alone. -/
def Flag.mask (f : Flag) : Byte := BitVec.twoPow 8 f.bit

/-- Read one flag of a status byte. -/
def getFlag (p : Byte) (f : Flag) : Bool := p.getLsbD f.bit

/-- Write one flag of a status byte: 1 for true, 0 for false (spec/00_scope.md R11). -/
def putFlag (p : Byte) (f : Flag) (v : Bool) : Byte := if v then p ||| f.mask else p &&& ~~~f.mask

/-- Bit 5 of P, "always 1" (R107): what every write of the whole byte forces. -/
def unusedBit : Byte := 0x20

/-- Bit 4 of P, B: what BRK sets in its pushed copy, and PHP by `P_PHP_B` (R108). -/
def breakBit : Byte := 0x10

/-- `SetNZ(v)` (R115) on a status byte. -/
def putNZ (p : Byte) (v : Byte) : Byte := putFlag (putFlag p .Z (v == 0x00)) .N (v.getLsbD 7)

/-- The exact sum of ADC: `A + m + P.C`, 0..511 (spec/43_arithmetic.md R701). -/
def addSum (a m : Byte) (c : Bool) : Nat := a.toNat + m.toNat + c.toNat

/-- `sum mod 256` (R701). -/
def addResult (a m : Byte) (c : Bool) : Byte := BitVec.ofNat 8 (addSum a m c)

/-- Carry: bit 8 of the sum (R701). -/
def addCarry (a m : Byte) (c : Bool) : Bool := (addSum a m c).testBit 8

/-- Overflow: `(A[7] == m[7]) and (A[7] != r[7])` (R701). -/
def addOverflow (a m : Byte) (c : Bool) : Bool :=
  a.getLsbD 7 == m.getLsbD 7 && a.getLsbD 7 != (addResult a m c).getLsbD 7

/-- The operand SBC adds: `~M` (R702). -/
def sbcOperand (m : Byte) : Byte := ~~~m

/-- The difference of a compare: `reg -8 m` (R703). -/
def compareResult (r m : Byte) : Byte := r - m

/-- Carry of a compare: `reg >= m`, unsigned (R703). -/
def compareCarry (r m : Byte) : Bool := decide (m.toNat ≤ r.toNat)

/-- ASL: `(v << 1) & 0xFF` (spec/45_shift_rotate.md R900). The old carry does not enter. -/
def aslResult (v : Byte) (_c : Bool) : Byte := v <<< 1

/-- LSR: `v >> 1` (R901). -/
def lsrResult (v : Byte) (_c : Bool) : Byte := v >>> 1

/-- ROL: `((v << 1) | P.C) & 0xFF` (R902). -/
def rolResult (v : Byte) (c : Bool) : Byte := (v <<< 1) ||| (if c then 0x01 else 0x00)

/-- ROR: `(v >> 1) | (P.C << 7)` (R903). -/
def rorResult (v : Byte) (c : Bool) : Byte := (v >>> 1) ||| (if c then 0x80 else 0x00)

/-- The bit a left shift or rotate moves out: `v[7]` (R900, R902). -/
def leftCarry (v : Byte) : Bool := v.getLsbD 7

/-- The bit a right shift or rotate moves out: `v[0]` (R901, R903). -/
def rightCarry (v : Byte) : Bool := v.getLsbD 0

/-- The flags BIT writes (spec/44_logic.md R803): Z of `A & m`, N and V the bits 7 and 6 of `m`. -/
def putBitTest (p a m : Byte) : Byte :=
  putFlag (putFlag (putFlag p .Z (a &&& m == 0x00)) .N (m.getLsbD 7)) .V (m.getLsbD 6)

end Sys2Proof.Machine
end

