-- ==== Sys2Proof/Machine/State.lean ====
section
/-! DEFINITION. The machine's state as plain data, the ways a transaction can stop, and the state after reset
(spec/10_state.md R100 to R119, spec/60_exceptions.md R1400, spec/70_reset_and_hazards.md R1502). -/

namespace Sys2Proof.Machine

/-- The 64 KiB memory (R116), as the list of the bytes that differ from 0x00, addresses rising (`Memory.wf`). An address
not listed reads 0x00, the value construction gives every byte (R1500; log entry 10). -/
abbrev Memory := List Host.Cell

/-- "The architectural registers are exactly these" (R100), and the memory (R116). There is no other state (R117, R119). -/
structure State where
  /-- Accumulator A (R101). -/
  a   : Byte
  /-- Index register X (R102). -/
  x   : Byte
  /-- Index register Y (R103). -/
  y   : Byte
  /-- Stack pointer SP, an offset into page 1 (R104). -/
  sp  : Byte
  /-- Program counter PC: between transactions, the address of the next instruction's opcode (R105). -/
  pc  : Addr
  /-- Processor status P: C0 Z1 I2 D3 B4 V6 N7, bit 5 always 1 (R106, R107). -/
  p   : Byte
  /-- Memory (R116). -/
  mem : Memory
deriving DecidableEq, Repr

/-- Why the assembler rejects a line (spec/30_encoding.md R346, its four cases). -/
inductive ParseReason where
  /-- "an unrecognized mnemonic". -/
  | unknownMnemonic
  /-- "an inferred (mnemonic, mode) pair with no table entry". -/
  | noTableEntry
  /-- "an operand of the wrong form or width". -/
  | badOperand
  /-- "an extra token". -/
  | extraToken
deriving DecidableEq, Repr

/-- The five fault kinds, a closed set (R1400). A fault leaves the state exactly as it was (R1406): the outcome carries no
state. Each is safe: the machine stops where the spec says it does. -/
inductive Fault where
  /-- Code 1. Raised by `step` at decode: the byte `op` at `pc` is one of the 105 illegal opcodes (R1401). Safe. -/
  | unknownOpcode (pc : Addr) (op : Byte)
  /-- Code 2. Raised by ADC and SBC when D = 1, before any effect (R1402, spec/43_arithmetic.md R700). Safe. -/
  | unsupportedArithmeticMode (pc : Addr) (op : Byte)
  /-- Code 3. Raised by `copyBytes` and `loadProgram` when the bytes do not fit (R1403). No step raises it. Safe. -/
  | outOfMemory (origin : Addr) (length : Nat)
  /-- Code 4. Raised by `encodeOpcode` for a pair with no opcode (R1404). No step raises it. Safe. -/
  | unsupportedEncoding (mnemonic : Mnemonic) (mode : Mode)
  /-- Code 5. Raised by `assemble` only (R1405). No step raises it. Safe. -/
  | parseError (line : Nat) (reason : ParseReason)
deriving DecidableEq, Repr

/-- The refusals. "The spec defines no instruction that needs it" (spec/00_scope.md R13), and no instruction here uses one. -/
inductive Refusal where
  /-- An instruction that has no meaning yet, by its mnemonic. Raised by a refused arm of `exec` alone; there is none. Safe. -/
  | notModelled (mnemonic : String)
deriving DecidableEq, Repr

/-- The machine right after construction (memory zeroed, R1500) and `Reset` (R1502): A, X, Y zero, SP 0xFF, P 0x24, and PC
the word at 0xFFFC, which is 0x0000 in a zeroed memory (DEDUCED, log entry 4). -/
def State.reset : State := { a := 0x00, x := 0x00, y := 0x00, sp := 0xFF, pc := 0x0000, p := 0x24, mem := [] }

end Sys2Proof.Machine
end

