-- ==== Sys2Proof/Machine/Memory.lean ====
section
/-! DEFINITION. Byte and word access to memory (spec/20_memory.md R201 to R205) over the canonical list of bytes. -/

namespace Sys2Proof.Machine

/-- The canonical form: addresses strictly rising, inside the address space, and no listed byte equal to what an unlisted
address reads as. Equal memories are then equal lists. -/
abbrev Memory.wf (m : Memory) : Prop :=
  m.Pairwise (fun c d => c.1 < d.1) ∧ ∀ c ∈ m, c.1 < 65536 ∧ c.2 ≠ 0x00

/-- The byte a list gives an address; 0x00 where it lists none (R1500: construction zeroes memory). -/
def Memory.lookup : Memory → Nat → Byte
  | [], _ => 0x00
  | (k, v) :: rest, a => if k = a then v else Memory.lookup rest a

/-- Put a byte at an address, keeping the addresses rising. -/
def Memory.insert : Memory → Nat → Byte → Memory
  | [], a, v => [(a, v)]
  | (k, u) :: rest, a, v =>
    if a < k then (a, v) :: (k, u) :: rest
    else if a = k then (a, v) :: rest
    else (k, u) :: Memory.insert rest a v

/-- List an address no more. -/
def Memory.erase : Memory → Nat → Memory
  | [], _ => []
  | (k, u) :: rest, a => if k = a then Memory.erase rest a else (k, u) :: Memory.erase rest a

/-- `MemRead(addr, 1)` (R201): never fails, every 16-bit address is valid. -/
def Memory.read (m : Memory) (a : Addr) : Byte := m.lookup a.toNat

/-- `MemWrite(addr, 1, v)` (R202): never fails and changes no other byte. Writing 0x00 lists the address no more. -/
def Memory.write (m : Memory) (a : Addr) (v : Byte) : Memory :=
  if v = 0x00 then m.erase a.toNat else m.insert a.toNat v

/-- `MemRead(addr, 2)` (R203): little-endian, the high byte at addr + 1 mod 65536. -/
def Memory.readWord (m : Memory) (a : Addr) : Addr := join (m.read (a + 1)) (m.read a)

/-- `MemWrite(addr, 2, v)` (R204). -/
def Memory.writeWord (m : Memory) (a : Addr) (v : Addr) : Memory := (m.write a (lo8 v)).write (a + 1) (hi8 v)

/-- The byte writes of `copyBytes` (R205), once the bytes are known to fit. -/
def Memory.writeBytes (m : Memory) (a : Addr) : List Byte → Memory
  | [] => m
  | v :: rest => Memory.writeBytes (m.write a v) (a + 1) rest

end Sys2Proof.Machine
end

