-- ==== Sys2Proof/Machine/Ops.lean ====
section
/-! DEFINITION. The named operations over registers, status and memory that every meaning is built from, taking the BRK
entry and returning from it (spec/10_state.md, spec/20_memory.md, spec/40_execute_cycle.md, spec/60_exceptions.md). -/

namespace Sys2Proof.Machine

/-- What running an instruction answers: a next state, a fault or a refusal (spec/00_scope.md R13). -/
abbrev Answer := Host.Outcome State Fault Refusal

/-- The 8-bit registers an instruction names (R100). -/
inductive Reg where
  | A | X | Y | SP
deriving DecidableEq, Repr

/-- Read a register. -/
def State.reg (s : State) : Reg → Byte
  | .A => s.a
  | .X => s.x
  | .Y => s.y
  | .SP => s.sp

/-- Write a register. No register is hardwired (R100). -/
def State.setReg (s : State) (r : Reg) (v : Byte) : State :=
  match r with
  | .A => { s with a := v }
  | .X => { s with x := v }
  | .Y => { s with y := v }
  | .SP => { s with sp := v }

/-- Read one flag of P. -/
def State.flag (s : State) (f : Flag) : Bool := getFlag s.p f

/-- `P.f <- v`: write one flag of P. -/
def State.setFlag (s : State) (f : Flag) (v : Bool) : State := { s with p := putFlag s.p f v }

/-- `SetNZ(v)` (R115). -/
def State.setNZ (s : State) (v : Byte) : State := { s with p := putNZ s.p v }

/-- Write P whole: "Every write of the whole byte forces it to 1", bit 5 (R107). -/
def State.setP (s : State) (v : Byte) : State := { s with p := v ||| unusedBit }

/-- `PC <- target` (spec/40_execute_cycle.md R405). -/
def State.setPC (s : State) (target : Addr) : State := { s with pc := target }

/-- `MemRead(addr, 1)` (R201). -/
def State.readByte (s : State) (a : Addr) : Byte := s.mem.read a

/-- `MemRead(addr, 2)` (R203). -/
def State.readWord (s : State) (a : Addr) : Addr := s.mem.readWord a

/-- `MemWrite(addr, 1, v)` (R202). -/
def State.writeByte (s : State) (a : Addr) (v : Byte) : State := { s with mem := s.mem.write a v }

/-- The stack byte SP designates: `0x0100 | zext_16(SP)` (R104). -/
def stackAddr (sp : Byte) : Addr := 0x0100 ||| zext16 sp

/-- `Push(v)` (spec/20_memory.md R214): store, then decrement SP mod 256. -/
def State.push (s : State) (v : Byte) : State :=
  { s with sp := s.sp - 1, mem := s.mem.write (stackAddr s.sp) v }

/-- The byte `Pull()` returns (R215): the one at the incremented SP. -/
def State.pulled (s : State) : Byte := s.mem.read (stackAddr (s.sp + 1))

/-- The state after `Pull()` (R215): SP incremented mod 256, the byte not cleared. -/
def State.pull (s : State) : State := { s with sp := s.sp + 1 }

/-- Push a 16-bit value, high byte first (R218). -/
def State.pushWord (s : State) (w : Addr) : State := (s.push (hi8 w)).push (lo8 w)

/-- The 16-bit value two pulls return, low byte first (R218). -/
def State.pulledWord (s : State) : Addr := join s.pull.pulled s.pulled

/-- The state after two pulls. -/
def State.pullWord (s : State) : State := s.pull.pull

/-- `nextPC = pc +16 len` (spec/40_execute_cycle.md R404). -/
def nextPC (pc : Addr) (m : Mode) : Addr := pc + BitVec.ofNat 16 m.length

/-- The generic advance: PC becomes nextPC (R405). -/
def State.advance (s : State) (m : Mode) : State := s.setPC (nextPC s.pc m)

/-- The BRK vector (spec/20_memory.md R212). -/
def breakVector : Addr := 0xFFFE

/-- The reset vector (R212). -/
def resetVector : Addr := 0xFFFC

/-- The status byte BRK pushes: `P | 0x30`, B = 1 and bit 5 = 1 (spec/49_system_flags.md R1300). -/
def breakStatus (p : Byte) : Byte := p ||| (breakBit ||| unusedBit)

/-- Take the one trap-like entry (spec/60_exceptions.md R1410, spec/49_system_flags.md R1300): push the return address,
high byte first, then P with B = 1; set I; jump through the vector at 0xFFFE. P.B and D do not change. -/
def State.enterBreak (s : State) (ret : Addr) : State :=
  let s1 := ((s.pushWord ret).push (breakStatus s.p)).setFlag .I true
  s1.setPC (s1.readWord breakVector)

/-- Return from it (R1411, R1301): pull P with bit 5 forced, then PC, low byte first, with no +1. -/
def State.returnFromBreak (s : State) : State :=
  let s1 := s.pull.setP s.pulled
  s1.pullWord.setPC s1.pulledWord

/-- The byte PHP pushes, by the parameter `P_PHP_B` (spec/48_stack.md R1201). -/
def phpByteWith (b : PhpB) (p : Byte) : Byte :=
  match b with
  | .verbatim => p
  | .set => p ||| breakBit

/-- The byte PHP pushes. -/
def phpByte (p : Byte) : Byte := phpByteWith Config.phpB p

/-- The decimal-mode guard of ADC and SBC (spec/43_arithmetic.md R700): after decode and before any effect. -/
def decimalGuard (op : Byte) (s : State) (effect : State) : Answer :=
  if s.flag .D then .fault (.unsupportedArithmeticMode s.pc op) else .next effect

/-- The bytes at PC, PC + 1 and PC + 2 mod 65536: the opcode and the bytes that may follow it (R401, R403, R303). -/
def State.fetched (s : State) : Byte × Byte × Byte :=
  (s.mem.read s.pc, s.mem.read (s.pc + 1), s.mem.read (s.pc + 2))

end Sys2Proof.Machine
end

