-- ==== Sys2Proof/Machine/Operands.lean ====
section
/-! DEFINITION. The addressing-mode resolver and the operand helpers (spec/30_encoding.md R320 to R331). -/

namespace Sys2Proof.Machine

/-- The eight modes that read or write a byte of memory, with their operand (R330, R331). -/
inductive MemMode where
  | zeroPage (b : Byte)
  | zeroPageX (b : Byte)
  | zeroPageY (b : Byte)
  | absolute (w : Addr)
  | absoluteX (w : Addr)
  | absoluteY (w : Addr)
  | xIndexedIndirect (b : Byte)
  | indirectYIndexed (b : Byte)
deriving DecidableEq, Repr

/-- A source operand (R330): the instruction's own byte, A, or a byte of memory. -/
inductive Operand where
  | immediate (v : Byte)
  | accumulator
  | memory (m : MemMode)
deriving DecidableEq, Repr

/-- What `WriteTarget` can write (R331): A or a byte of memory. -/
inductive Target where
  | accumulator
  | memory (m : MemMode)
deriving DecidableEq, Repr

/-- The table's mode of a memory mode (R302). -/
def MemMode.mode : MemMode → Mode
  | .zeroPage _ => .zeroPage
  | .zeroPageX _ => .zeroPageX
  | .zeroPageY _ => .zeroPageY
  | .absolute _ => .absolute
  | .absoluteX _ => .absoluteX
  | .absoluteY _ => .absoluteY
  | .xIndexedIndirect _ => .xIndexedIndirect
  | .indirectYIndexed _ => .indirectYIndexed

/-- The table's mode of an operand. -/
def Operand.mode : Operand → Mode
  | .immediate _ => .immediate
  | .accumulator => .accumulator
  | .memory m => m.mode

/-- A target read as an operand: a read-modify-write instruction reads what it writes (R320). -/
def Target.operand : Target → Operand
  | .accumulator => .accumulator
  | .memory m => .memory m

/-- The table's mode of a target. -/
def Target.mode (t : Target) : Mode := t.operand.mode

/-- The word a zero-page pointer holds (R326, R327): at pointer 0xFF the high byte comes from 0x0000 where `wrap`
(`P_ZP_PTR_WRAP`) holds, else from 0x0100; at every other pointer both readings are the next byte. -/
def zpPointerWith (wrap : Bool) (mem : Memory) (ptr : Byte) : Addr :=
  let hi := if ptr == 0xFF && wrap then mem.read 0x0000 else mem.read (zext16 ptr + 1)
  join hi (mem.read (zext16 ptr))

/-- The EA of the Indirect mode, JMP only (R325): at a pointer whose low byte is 0xFF the high byte comes from the start of
the pointer's own page where `wrap` (`P_JMP_IND_WRAP`) holds, else from pointer + 1 mod 65536. -/
def indirectWith (wrap : Bool) (mem : Memory) (ptr : Addr) : Addr :=
  let hi := if lo8 ptr == 0xFF && wrap then mem.read (join (hi8 ptr) 0x00) else mem.read (ptr + 1)
  join hi (mem.read ptr)

/-- `EA(mode)` of the eight data modes (R321 to R324, R326, R327), `zpWrap` standing for `P_ZP_PTR_WRAP`. -/
def eaWith (zpWrap : Bool) (m : MemMode) (s : State) : Addr :=
  match m with
  | .zeroPage b => zext16 b
  | .zeroPageX b => zext16 (b + s.x)
  | .zeroPageY b => zext16 (b + s.y)
  | .absolute w => w
  | .absoluteX w => w + zext16 s.x
  | .absoluteY w => w + zext16 s.y
  | .xIndexedIndirect b => zpPointerWith zpWrap s.mem (b + s.x)
  | .indirectYIndexed b => zpPointerWith zpWrap s.mem b + zext16 s.y

/-- `EA(mode)` of the eight data modes. -/
def ea (m : MemMode) (s : State) : Addr := eaWith Config.zpPtrWrap m s

/-- `EA(Indirect)` (R325). -/
def eaIndirect (ptr : Addr) (s : State) : Addr := indirectWith Config.jmpIndWrap s.mem ptr

/-- `EA(Relative)` (R328): the branch target, `nextPC +16 sext_16(b1)`. -/
def eaRelative (off : Byte) (s : State) : Addr := nextPC s.pc .relative + sext16 off

/-- `ReadOperand(mode)` (R330). -/
def readOperand (o : Operand) (s : State) : Byte :=
  match o with
  | .immediate v => v
  | .accumulator => s.a
  | .memory m => s.readByte (ea m s)

/-- `WriteTarget(mode, v)` (R331). -/
def writeTarget (t : Target) (v : Byte) (s : State) : State :=
  match t with
  | .accumulator => s.setReg .A v
  | .memory m => s.writeByte (ea m s) v

end Sys2Proof.Machine
end

