-- ==== Sys2Proof/Machine/Arithmetic.lean ====
section
/-! DEFINITION. Arithmetic and compare instructions (spec/43_arithmetic.md). -/

namespace Sys2Proof.Machine

/-- Add a byte and the carry to A (R701): C, V, A, then N and Z. -/
def addToA (m : Byte) (s : State) : State :=
  let c := s.flag .C
  let r := addResult s.a m c
  (((s.setFlag .C (addCarry s.a m c)).setFlag .V (addOverflow s.a m c)).setReg .A r).setNZ r

/-- ADC (R701), behind the decimal guard (R700). -/
def adc (op : Byte) (o : Operand) (s : State) : Answer :=
  decimalGuard op s ((addToA (readOperand o s) s).advance o.mode)

/-- SBC (R702), the sum with the complement of the operand, behind the decimal guard (R700). -/
def sbc (op : Byte) (o : Operand) (s : State) : Answer :=
  decimalGuard op s ((addToA (sbcOperand (readOperand o s)) s).advance o.mode)

/-- A compare (R703 to R705): C, N and Z from the register less the operand; no register, no decimal guard. -/
def compareReg (r : Reg) (o : Operand) (s : State) : Answer :=
  let m := readOperand o s
  .next (((s.setFlag .C (compareCarry (s.reg r) m)).setNZ (compareResult (s.reg r) m)).advance o.mode)

/-- ADC, Immediate, opcode 0x69 (R701). -/
def execAdcImm (v : Byte) (s : State) : Answer := adc 0x69 (.immediate v) s

/-- ADC, ZeroPage, opcode 0x65 (R701). -/
def execAdcZp (b : Byte) (s : State) : Answer := adc 0x65 (.memory (.zeroPage b)) s

/-- ADC, ZeroPageX, opcode 0x75 (R701). -/
def execAdcZpX (b : Byte) (s : State) : Answer := adc 0x75 (.memory (.zeroPageX b)) s

/-- ADC, Absolute, opcode 0x6D (R701). -/
def execAdcAbs (w : Addr) (s : State) : Answer := adc 0x6D (.memory (.absolute w)) s

/-- ADC, AbsoluteX, opcode 0x7D (R701). -/
def execAdcAbsX (w : Addr) (s : State) : Answer := adc 0x7D (.memory (.absoluteX w)) s

/-- ADC, AbsoluteY, opcode 0x79 (R701). -/
def execAdcAbsY (w : Addr) (s : State) : Answer := adc 0x79 (.memory (.absoluteY w)) s

/-- ADC, XIndexedIndirect, opcode 0x61 (R701). -/
def execAdcIndX (b : Byte) (s : State) : Answer := adc 0x61 (.memory (.xIndexedIndirect b)) s

/-- ADC, IndirectYIndexed, opcode 0x71 (R701). -/
def execAdcIndY (b : Byte) (s : State) : Answer := adc 0x71 (.memory (.indirectYIndexed b)) s

/-- SBC, Immediate, opcode 0xE9 (R702). -/
def execSbcImm (v : Byte) (s : State) : Answer := sbc 0xE9 (.immediate v) s

/-- SBC, ZeroPage, opcode 0xE5 (R702). -/
def execSbcZp (b : Byte) (s : State) : Answer := sbc 0xE5 (.memory (.zeroPage b)) s

/-- SBC, ZeroPageX, opcode 0xF5 (R702). -/
def execSbcZpX (b : Byte) (s : State) : Answer := sbc 0xF5 (.memory (.zeroPageX b)) s

/-- SBC, Absolute, opcode 0xED (R702). -/
def execSbcAbs (w : Addr) (s : State) : Answer := sbc 0xED (.memory (.absolute w)) s

/-- SBC, AbsoluteX, opcode 0xFD (R702). -/
def execSbcAbsX (w : Addr) (s : State) : Answer := sbc 0xFD (.memory (.absoluteX w)) s

/-- SBC, AbsoluteY, opcode 0xF9 (R702). -/
def execSbcAbsY (w : Addr) (s : State) : Answer := sbc 0xF9 (.memory (.absoluteY w)) s

/-- SBC, XIndexedIndirect, opcode 0xE1 (R702). -/
def execSbcIndX (b : Byte) (s : State) : Answer := sbc 0xE1 (.memory (.xIndexedIndirect b)) s

/-- SBC, IndirectYIndexed, opcode 0xF1 (R702). -/
def execSbcIndY (b : Byte) (s : State) : Answer := sbc 0xF1 (.memory (.indirectYIndexed b)) s

/-- CMP, Immediate, opcode 0xC9 (R703). -/
def execCmpImm (v : Byte) (s : State) : Answer := compareReg .A (.immediate v) s

/-- CMP, ZeroPage, opcode 0xC5 (R703). -/
def execCmpZp (b : Byte) (s : State) : Answer := compareReg .A (.memory (.zeroPage b)) s

/-- CMP, ZeroPageX, opcode 0xD5 (R703). -/
def execCmpZpX (b : Byte) (s : State) : Answer := compareReg .A (.memory (.zeroPageX b)) s

/-- CMP, Absolute, opcode 0xCD (R703). -/
def execCmpAbs (w : Addr) (s : State) : Answer := compareReg .A (.memory (.absolute w)) s

/-- CMP, AbsoluteX, opcode 0xDD (R703). -/
def execCmpAbsX (w : Addr) (s : State) : Answer := compareReg .A (.memory (.absoluteX w)) s

/-- CMP, AbsoluteY, opcode 0xD9 (R703). -/
def execCmpAbsY (w : Addr) (s : State) : Answer := compareReg .A (.memory (.absoluteY w)) s

/-- CMP, XIndexedIndirect, opcode 0xC1 (R703). -/
def execCmpIndX (b : Byte) (s : State) : Answer := compareReg .A (.memory (.xIndexedIndirect b)) s

/-- CMP, IndirectYIndexed, opcode 0xD1 (R703). -/
def execCmpIndY (b : Byte) (s : State) : Answer := compareReg .A (.memory (.indirectYIndexed b)) s

/-- CPX, Immediate, opcode 0xE0 (R704). -/
def execCpxImm (v : Byte) (s : State) : Answer := compareReg .X (.immediate v) s

/-- CPX, ZeroPage, opcode 0xE4 (R704). -/
def execCpxZp (b : Byte) (s : State) : Answer := compareReg .X (.memory (.zeroPage b)) s

/-- CPX, Absolute, opcode 0xEC (R704). -/
def execCpxAbs (w : Addr) (s : State) : Answer := compareReg .X (.memory (.absolute w)) s

/-- CPY, Immediate, opcode 0xC0 (R705). -/
def execCpyImm (v : Byte) (s : State) : Answer := compareReg .Y (.immediate v) s

/-- CPY, ZeroPage, opcode 0xC4 (R705). -/
def execCpyZp (b : Byte) (s : State) : Answer := compareReg .Y (.memory (.zeroPage b)) s

/-- CPY, Absolute, opcode 0xCC (R705). -/
def execCpyAbs (w : Addr) (s : State) : Answer := compareReg .Y (.memory (.absolute w)) s

end Sys2Proof.Machine
end

