-- ==== Sys2Proof/Machine/Branch.lean ====
section
/-! DEFINITION. Branch, jump, call and return instructions (spec/47_branch_jump.md). Each sets PC itself and takes no generic
advance (spec/40_execute_cycle.md R405); a branch not taken goes on at nextPC. -/

namespace Sys2Proof.Machine

/-- A conditional branch (R1101 to R1108): taken where the flag has the wanted value. -/
def branchIf (f : Flag) (wanted : Bool) (off : Byte) (s : State) : Answer :=
  .next (s.setPC (if s.flag f == wanted then eaRelative off s else nextPC s.pc .relative))

/-- BPL, Relative, opcode 0x10 (R1101). -/
def execBpl (off : Byte) (s : State) : Answer := branchIf .N false off s

/-- BMI, Relative, opcode 0x30 (R1102). -/
def execBmi (off : Byte) (s : State) : Answer := branchIf .N true off s

/-- BVC, Relative, opcode 0x50 (R1103). -/
def execBvc (off : Byte) (s : State) : Answer := branchIf .V false off s

/-- BVS, Relative, opcode 0x70 (R1104). -/
def execBvs (off : Byte) (s : State) : Answer := branchIf .V true off s

/-- BCC, Relative, opcode 0x90 (R1105). -/
def execBcc (off : Byte) (s : State) : Answer := branchIf .C false off s

/-- BCS, Relative, opcode 0xB0 (R1106). -/
def execBcs (off : Byte) (s : State) : Answer := branchIf .C true off s

/-- BNE, Relative, opcode 0xD0 (R1107). -/
def execBne (off : Byte) (s : State) : Answer := branchIf .Z false off s

/-- BEQ, Relative, opcode 0xF0 (R1108). -/
def execBeq (off : Byte) (s : State) : Answer := branchIf .Z true off s

/-- JMP, Absolute, opcode 0x4C (R1109). -/
def execJmpAbs (w : Addr) (s : State) : Answer := .next (s.setPC w)

/-- JMP, Indirect, opcode 0x6C (R1109). -/
def execJmpInd (w : Addr) (s : State) : Answer := .next (s.setPC (eaIndirect w s))

/-- JSR, Absolute, opcode 0x20 (R1110). -/
def execJsrAbs (w : Addr) (s : State) : Answer := .next ((s.pushWord (nextPC s.pc .absolute - 1)).setPC w)

/-- RTS, Implicit, opcode 0x60 (R1111). -/
def execRts (s : State) : Answer := .next (s.pullWord.setPC (s.pulledWord + 1))

end Sys2Proof.Machine
end

