-- ==== Sys2Proof/Machine/Increment.lean ====
section
/-! DEFINITION. Increment and decrement instructions (spec/46_increment.md). -/

namespace Sys2Proof.Machine

/-- INC and DEC (R1000, R1001): read, step mod 256, write back; N and Z. -/
def stepMem (f : Byte → Byte) (m : MemMode) (s : State) : Answer :=
  let r := f (readOperand (.memory m) s)
  .next (((writeTarget (.memory m) r s).setNZ r).advance m.mode)

/-- INX, INY, DEX, DEY (R1002 to R1005): step the register mod 256; N and Z. -/
def stepReg (f : Byte → Byte) (r : Reg) (s : State) : Answer :=
  .next (((s.setReg r (f (s.reg r))).setNZ (f (s.reg r))).advance .implicit)

/-- INC, ZeroPage, opcode 0xE6 (R1000). -/
def execIncZp (b : Byte) (s : State) : Answer := stepMem (· + 1) (.zeroPage b) s

/-- INC, ZeroPageX, opcode 0xF6 (R1000). -/
def execIncZpX (b : Byte) (s : State) : Answer := stepMem (· + 1) (.zeroPageX b) s

/-- INC, Absolute, opcode 0xEE (R1000). -/
def execIncAbs (w : Addr) (s : State) : Answer := stepMem (· + 1) (.absolute w) s

/-- INC, AbsoluteX, opcode 0xFE (R1000). -/
def execIncAbsX (w : Addr) (s : State) : Answer := stepMem (· + 1) (.absoluteX w) s

/-- DEC, ZeroPage, opcode 0xC6 (R1001). -/
def execDecZp (b : Byte) (s : State) : Answer := stepMem (· - 1) (.zeroPage b) s

/-- DEC, ZeroPageX, opcode 0xD6 (R1001). -/
def execDecZpX (b : Byte) (s : State) : Answer := stepMem (· - 1) (.zeroPageX b) s

/-- DEC, Absolute, opcode 0xCE (R1001). -/
def execDecAbs (w : Addr) (s : State) : Answer := stepMem (· - 1) (.absolute w) s

/-- DEC, AbsoluteX, opcode 0xDE (R1001). -/
def execDecAbsX (w : Addr) (s : State) : Answer := stepMem (· - 1) (.absoluteX w) s

/-- INX, Implicit, opcode 0xE8 (R1002). -/
def execInx (s : State) : Answer := stepReg (· + 1) .X s

/-- INY, Implicit, opcode 0xC8 (R1003). -/
def execIny (s : State) : Answer := stepReg (· + 1) .Y s

/-- DEX, Implicit, opcode 0xCA (R1004). -/
def execDex (s : State) : Answer := stepReg (· - 1) .X s

/-- DEY, Implicit, opcode 0x88 (R1005). -/
def execDey (s : State) : Answer := stepReg (· - 1) .Y s

end Sys2Proof.Machine
end

