-- ==== Sys2Proof/Machine/LoadStore.lean ====
section
/-! DEFINITION. Load and store instructions (spec/41_load_store.md). -/

namespace Sys2Proof.Machine

/-- A load (R500 to R502): the register takes the operand, N and Z follow it. -/
def loadReg (r : Reg) (o : Operand) (s : State) : Answer :=
  let v := readOperand o s
  .next (((s.setReg r v).setNZ v).advance o.mode)

/-- A store (R503 to R505): `WriteTarget(mode, reg)`, no flag. -/
def storeReg (r : Reg) (m : MemMode) (s : State) : Answer :=
  .next ((writeTarget (.memory m) (s.reg r) s).advance m.mode)

/-- LDA, Immediate, opcode 0xA9 (R500). -/
def execLdaImm (v : Byte) (s : State) : Answer := loadReg .A (.immediate v) s

/-- LDA, ZeroPage, opcode 0xA5 (R500). -/
def execLdaZp (b : Byte) (s : State) : Answer := loadReg .A (.memory (.zeroPage b)) s

/-- LDA, ZeroPageX, opcode 0xB5 (R500). -/
def execLdaZpX (b : Byte) (s : State) : Answer := loadReg .A (.memory (.zeroPageX b)) s

/-- LDA, Absolute, opcode 0xAD (R500). -/
def execLdaAbs (w : Addr) (s : State) : Answer := loadReg .A (.memory (.absolute w)) s

/-- LDA, AbsoluteX, opcode 0xBD (R500). -/
def execLdaAbsX (w : Addr) (s : State) : Answer := loadReg .A (.memory (.absoluteX w)) s

/-- LDA, AbsoluteY, opcode 0xB9 (R500). -/
def execLdaAbsY (w : Addr) (s : State) : Answer := loadReg .A (.memory (.absoluteY w)) s

/-- LDA, XIndexedIndirect, opcode 0xA1 (R500). -/
def execLdaIndX (b : Byte) (s : State) : Answer := loadReg .A (.memory (.xIndexedIndirect b)) s

/-- LDA, IndirectYIndexed, opcode 0xB1 (R500). -/
def execLdaIndY (b : Byte) (s : State) : Answer := loadReg .A (.memory (.indirectYIndexed b)) s

/-- LDX, Immediate, opcode 0xA2 (R501). -/
def execLdxImm (v : Byte) (s : State) : Answer := loadReg .X (.immediate v) s

/-- LDX, ZeroPage, opcode 0xA6 (R501). -/
def execLdxZp (b : Byte) (s : State) : Answer := loadReg .X (.memory (.zeroPage b)) s

/-- LDX, ZeroPageY, opcode 0xB6 (R501). -/
def execLdxZpY (b : Byte) (s : State) : Answer := loadReg .X (.memory (.zeroPageY b)) s

/-- LDX, Absolute, opcode 0xAE (R501). -/
def execLdxAbs (w : Addr) (s : State) : Answer := loadReg .X (.memory (.absolute w)) s

/-- LDX, AbsoluteY, opcode 0xBE (R501). -/
def execLdxAbsY (w : Addr) (s : State) : Answer := loadReg .X (.memory (.absoluteY w)) s

/-- LDY, Immediate, opcode 0xA0 (R502). -/
def execLdyImm (v : Byte) (s : State) : Answer := loadReg .Y (.immediate v) s

/-- LDY, ZeroPage, opcode 0xA4 (R502). -/
def execLdyZp (b : Byte) (s : State) : Answer := loadReg .Y (.memory (.zeroPage b)) s

/-- LDY, ZeroPageX, opcode 0xB4 (R502). -/
def execLdyZpX (b : Byte) (s : State) : Answer := loadReg .Y (.memory (.zeroPageX b)) s

/-- LDY, Absolute, opcode 0xAC (R502). -/
def execLdyAbs (w : Addr) (s : State) : Answer := loadReg .Y (.memory (.absolute w)) s

/-- LDY, AbsoluteX, opcode 0xBC (R502). -/
def execLdyAbsX (w : Addr) (s : State) : Answer := loadReg .Y (.memory (.absoluteX w)) s

/-- STA, ZeroPage, opcode 0x85 (R503). -/
def execStaZp (b : Byte) (s : State) : Answer := storeReg .A (.zeroPage b) s

/-- STA, ZeroPageX, opcode 0x95 (R503). -/
def execStaZpX (b : Byte) (s : State) : Answer := storeReg .A (.zeroPageX b) s

/-- STA, Absolute, opcode 0x8D (R503). -/
def execStaAbs (w : Addr) (s : State) : Answer := storeReg .A (.absolute w) s

/-- STA, AbsoluteX, opcode 0x9D (R503). -/
def execStaAbsX (w : Addr) (s : State) : Answer := storeReg .A (.absoluteX w) s

/-- STA, AbsoluteY, opcode 0x99 (R503). -/
def execStaAbsY (w : Addr) (s : State) : Answer := storeReg .A (.absoluteY w) s

/-- STA, XIndexedIndirect, opcode 0x81 (R503). -/
def execStaIndX (b : Byte) (s : State) : Answer := storeReg .A (.xIndexedIndirect b) s

/-- STA, IndirectYIndexed, opcode 0x91 (R503). -/
def execStaIndY (b : Byte) (s : State) : Answer := storeReg .A (.indirectYIndexed b) s

/-- STX, ZeroPage, opcode 0x86 (R504). -/
def execStxZp (b : Byte) (s : State) : Answer := storeReg .X (.zeroPage b) s

/-- STX, ZeroPageY, opcode 0x96 (R504). -/
def execStxZpY (b : Byte) (s : State) : Answer := storeReg .X (.zeroPageY b) s

/-- STX, Absolute, opcode 0x8E (R504). -/
def execStxAbs (w : Addr) (s : State) : Answer := storeReg .X (.absolute w) s

/-- STY, ZeroPage, opcode 0x84 (R505). -/
def execStyZp (b : Byte) (s : State) : Answer := storeReg .Y (.zeroPage b) s

/-- STY, ZeroPageX, opcode 0x94 (R505). -/
def execStyZpX (b : Byte) (s : State) : Answer := storeReg .Y (.zeroPageX b) s

/-- STY, Absolute, opcode 0x8C (R505). -/
def execStyAbs (w : Addr) (s : State) : Answer := storeReg .Y (.absolute w) s

end Sys2Proof.Machine
end

