-- ==== Sys2Proof/Machine/Logic.lean ====
section
/-! DEFINITION. Logic instructions (spec/44_logic.md). -/

namespace Sys2Proof.Machine

/-- A logic instruction (R800 to R802): A takes the bitwise result, N and Z follow it. -/
def logicA (f : Byte → Byte → Byte) (o : Operand) (s : State) : Answer :=
  let r := f s.a (readOperand o s)
  .next (((s.setReg .A r).setNZ r).advance o.mode)

/-- BIT (R803): Z from `A & m`, N and V from the operand; A unchanged. -/
def bitTest (o : Operand) (s : State) : Answer :=
  .next ({ s with p := putBitTest s.p s.a (readOperand o s) }.advance o.mode)

/-- AND, Immediate, opcode 0x29 (R800). -/
def execAndImm (v : Byte) (s : State) : Answer := logicA (· &&& ·) (.immediate v) s

/-- AND, ZeroPage, opcode 0x25 (R800). -/
def execAndZp (b : Byte) (s : State) : Answer := logicA (· &&& ·) (.memory (.zeroPage b)) s

/-- AND, ZeroPageX, opcode 0x35 (R800). -/
def execAndZpX (b : Byte) (s : State) : Answer := logicA (· &&& ·) (.memory (.zeroPageX b)) s

/-- AND, Absolute, opcode 0x2D (R800). -/
def execAndAbs (w : Addr) (s : State) : Answer := logicA (· &&& ·) (.memory (.absolute w)) s

/-- AND, AbsoluteX, opcode 0x3D (R800). -/
def execAndAbsX (w : Addr) (s : State) : Answer := logicA (· &&& ·) (.memory (.absoluteX w)) s

/-- AND, AbsoluteY, opcode 0x39 (R800). -/
def execAndAbsY (w : Addr) (s : State) : Answer := logicA (· &&& ·) (.memory (.absoluteY w)) s

/-- AND, XIndexedIndirect, opcode 0x21 (R800). -/
def execAndIndX (b : Byte) (s : State) : Answer := logicA (· &&& ·) (.memory (.xIndexedIndirect b)) s

/-- AND, IndirectYIndexed, opcode 0x31 (R800). -/
def execAndIndY (b : Byte) (s : State) : Answer := logicA (· &&& ·) (.memory (.indirectYIndexed b)) s

/-- ORA, Immediate, opcode 0x09 (R801). -/
def execOraImm (v : Byte) (s : State) : Answer := logicA (· ||| ·) (.immediate v) s

/-- ORA, ZeroPage, opcode 0x05 (R801). -/
def execOraZp (b : Byte) (s : State) : Answer := logicA (· ||| ·) (.memory (.zeroPage b)) s

/-- ORA, ZeroPageX, opcode 0x15 (R801). -/
def execOraZpX (b : Byte) (s : State) : Answer := logicA (· ||| ·) (.memory (.zeroPageX b)) s

/-- ORA, Absolute, opcode 0x0D (R801). -/
def execOraAbs (w : Addr) (s : State) : Answer := logicA (· ||| ·) (.memory (.absolute w)) s

/-- ORA, AbsoluteX, opcode 0x1D (R801). -/
def execOraAbsX (w : Addr) (s : State) : Answer := logicA (· ||| ·) (.memory (.absoluteX w)) s

/-- ORA, AbsoluteY, opcode 0x19 (R801). -/
def execOraAbsY (w : Addr) (s : State) : Answer := logicA (· ||| ·) (.memory (.absoluteY w)) s

/-- ORA, XIndexedIndirect, opcode 0x01 (R801). -/
def execOraIndX (b : Byte) (s : State) : Answer := logicA (· ||| ·) (.memory (.xIndexedIndirect b)) s

/-- ORA, IndirectYIndexed, opcode 0x11 (R801). -/
def execOraIndY (b : Byte) (s : State) : Answer := logicA (· ||| ·) (.memory (.indirectYIndexed b)) s

/-- EOR, Immediate, opcode 0x49 (R802). -/
def execEorImm (v : Byte) (s : State) : Answer := logicA (· ^^^ ·) (.immediate v) s

/-- EOR, ZeroPage, opcode 0x45 (R802). -/
def execEorZp (b : Byte) (s : State) : Answer := logicA (· ^^^ ·) (.memory (.zeroPage b)) s

/-- EOR, ZeroPageX, opcode 0x55 (R802). -/
def execEorZpX (b : Byte) (s : State) : Answer := logicA (· ^^^ ·) (.memory (.zeroPageX b)) s

/-- EOR, Absolute, opcode 0x4D (R802). -/
def execEorAbs (w : Addr) (s : State) : Answer := logicA (· ^^^ ·) (.memory (.absolute w)) s

/-- EOR, AbsoluteX, opcode 0x5D (R802). -/
def execEorAbsX (w : Addr) (s : State) : Answer := logicA (· ^^^ ·) (.memory (.absoluteX w)) s

/-- EOR, AbsoluteY, opcode 0x59 (R802). -/
def execEorAbsY (w : Addr) (s : State) : Answer := logicA (· ^^^ ·) (.memory (.absoluteY w)) s

/-- EOR, XIndexedIndirect, opcode 0x41 (R802). -/
def execEorIndX (b : Byte) (s : State) : Answer := logicA (· ^^^ ·) (.memory (.xIndexedIndirect b)) s

/-- EOR, IndirectYIndexed, opcode 0x51 (R802). -/
def execEorIndY (b : Byte) (s : State) : Answer := logicA (· ^^^ ·) (.memory (.indirectYIndexed b)) s

/-- BIT, ZeroPage, opcode 0x24 (R803). -/
def execBitZp (b : Byte) (s : State) : Answer := bitTest (.memory (.zeroPage b)) s

/-- BIT, Absolute, opcode 0x2C (R803). -/
def execBitAbs (w : Addr) (s : State) : Answer := bitTest (.memory (.absolute w)) s

end Sys2Proof.Machine
end

