-- ==== Sys2Proof/Machine/Shift.lean ====
section
/-! DEFINITION. Shift and rotate instructions (spec/45_shift_rotate.md). -/

namespace Sys2Proof.Machine

/-- A shift or rotate (R900 to R903): read the target, C takes the bit moved out, the result goes back to the target, N and Z
follow it. `f` is given the old carry. -/
def shiftTarget (f : Byte → Bool → Byte) (out : Byte → Bool) (t : Target) (s : State) : Answer :=
  let v := readOperand t.operand s
  let r := f v (s.flag .C)
  .next ((((writeTarget t r s).setFlag .C (out v)).setNZ r).advance t.mode)

/-- ASL, Accumulator, opcode 0x0A (R900). -/
def execAslAcc (s : State) : Answer := shiftTarget aslResult leftCarry .accumulator s

/-- ASL, ZeroPage, opcode 0x06 (R900). -/
def execAslZp (b : Byte) (s : State) : Answer := shiftTarget aslResult leftCarry (.memory (.zeroPage b)) s

/-- ASL, ZeroPageX, opcode 0x16 (R900). -/
def execAslZpX (b : Byte) (s : State) : Answer := shiftTarget aslResult leftCarry (.memory (.zeroPageX b)) s

/-- ASL, Absolute, opcode 0x0E (R900). -/
def execAslAbs (w : Addr) (s : State) : Answer := shiftTarget aslResult leftCarry (.memory (.absolute w)) s

/-- ASL, AbsoluteX, opcode 0x1E (R900). -/
def execAslAbsX (w : Addr) (s : State) : Answer := shiftTarget aslResult leftCarry (.memory (.absoluteX w)) s

/-- LSR, Accumulator, opcode 0x4A (R901). -/
def execLsrAcc (s : State) : Answer := shiftTarget lsrResult rightCarry .accumulator s

/-- LSR, ZeroPage, opcode 0x46 (R901). -/
def execLsrZp (b : Byte) (s : State) : Answer := shiftTarget lsrResult rightCarry (.memory (.zeroPage b)) s

/-- LSR, ZeroPageX, opcode 0x56 (R901). -/
def execLsrZpX (b : Byte) (s : State) : Answer := shiftTarget lsrResult rightCarry (.memory (.zeroPageX b)) s

/-- LSR, Absolute, opcode 0x4E (R901). -/
def execLsrAbs (w : Addr) (s : State) : Answer := shiftTarget lsrResult rightCarry (.memory (.absolute w)) s

/-- LSR, AbsoluteX, opcode 0x5E (R901). -/
def execLsrAbsX (w : Addr) (s : State) : Answer := shiftTarget lsrResult rightCarry (.memory (.absoluteX w)) s

/-- ROL, Accumulator, opcode 0x2A (R902). -/
def execRolAcc (s : State) : Answer := shiftTarget rolResult leftCarry .accumulator s

/-- ROL, ZeroPage, opcode 0x26 (R902). -/
def execRolZp (b : Byte) (s : State) : Answer := shiftTarget rolResult leftCarry (.memory (.zeroPage b)) s

/-- ROL, ZeroPageX, opcode 0x36 (R902). -/
def execRolZpX (b : Byte) (s : State) : Answer := shiftTarget rolResult leftCarry (.memory (.zeroPageX b)) s

/-- ROL, Absolute, opcode 0x2E (R902). -/
def execRolAbs (w : Addr) (s : State) : Answer := shiftTarget rolResult leftCarry (.memory (.absolute w)) s

/-- ROL, AbsoluteX, opcode 0x3E (R902). -/
def execRolAbsX (w : Addr) (s : State) : Answer := shiftTarget rolResult leftCarry (.memory (.absoluteX w)) s

/-- ROR, Accumulator, opcode 0x6A (R903). -/
def execRorAcc (s : State) : Answer := shiftTarget rorResult rightCarry .accumulator s

/-- ROR, ZeroPage, opcode 0x66 (R903). -/
def execRorZp (b : Byte) (s : State) : Answer := shiftTarget rorResult rightCarry (.memory (.zeroPage b)) s

/-- ROR, ZeroPageX, opcode 0x76 (R903). -/
def execRorZpX (b : Byte) (s : State) : Answer := shiftTarget rorResult rightCarry (.memory (.zeroPageX b)) s

/-- ROR, Absolute, opcode 0x6E (R903). -/
def execRorAbs (w : Addr) (s : State) : Answer := shiftTarget rorResult rightCarry (.memory (.absolute w)) s

/-- ROR, AbsoluteX, opcode 0x7E (R903). -/
def execRorAbsX (w : Addr) (s : State) : Answer := shiftTarget rorResult rightCarry (.memory (.absoluteX w)) s

end Sys2Proof.Machine
end

