-- ==== Sys2Proof/Machine/Stack.lean ====
section
/-! DEFINITION. Stack instructions (spec/48_stack.md). -/

namespace Sys2Proof.Machine



/-- PHA, Implicit, opcode 0x48 (R1200). -/
def execPha (s : State) : Answer := .next ((s.push s.a).advance .implicit)

/-- PHP, Implicit, opcode 0x08 (R1201). -/
def execPhp (s : State) : Answer := .next ((s.push (phpByte s.p)).advance .implicit)

/-- PLA, Implicit, opcode 0x68 (R1202). -/
def execPla (s : State) : Answer := .next (((s.pull.setReg .A s.pulled).setNZ s.pulled).advance .implicit)

/-- PLP, Implicit, opcode 0x28 (R1203). -/
def execPlp (s : State) : Answer := .next ((s.pull.setP s.pulled).advance .implicit)

end Sys2Proof.Machine
end

