-- ==== Sys2Proof/Machine/System.lean ====
section
/-! DEFINITION. BRK, RTI, the flag instructions and NOP (spec/49_system_flags.md). -/

namespace Sys2Proof.Machine

/-- A flag instruction (R1302 to R1308): one flag written, nothing else but PC. -/
def writeFlag (f : Flag) (v : Bool) (s : State) : Answer := .next ((s.setFlag f v).advance .implicit)

/-- BRK, Implicit, opcode 0x00 (R1300). -/
def execBrk (s : State) : Answer := .next (s.enterBreak (s.pc + 2))

/-- RTI, Implicit, opcode 0x40 (R1301). -/
def execRti (s : State) : Answer := .next s.returnFromBreak

/-- CLC, Implicit, opcode 0x18 (R1302). -/
def execClc (s : State) : Answer := writeFlag .C false s

/-- SEC, Implicit, opcode 0x38 (R1303). -/
def execSec (s : State) : Answer := writeFlag .C true s

/-- CLI, Implicit, opcode 0x58 (R1304). -/
def execCli (s : State) : Answer := writeFlag .I false s

/-- SEI, Implicit, opcode 0x78 (R1305). -/
def execSei (s : State) : Answer := writeFlag .I true s

/-- CLD, Implicit, opcode 0xD8 (R1306). -/
def execCld (s : State) : Answer := writeFlag .D false s

/-- SED, Implicit, opcode 0xF8 (R1307). -/
def execSed (s : State) : Answer := writeFlag .D true s

/-- CLV, Implicit, opcode 0xB8 (R1308). -/
def execClv (s : State) : Answer := writeFlag .V false s

/-- NOP, Implicit, opcode 0xEA (R1309). -/
def execNop (s : State) : Answer := .next (s.advance .implicit)

end Sys2Proof.Machine
end

