-- ==== Sys2Proof/Machine/Transfer.lean ====
section
/-! DEFINITION. Register transfer instructions (spec/42_transfer.md). -/

namespace Sys2Proof.Machine

/-- A transfer (R600 to R604): the destination takes the source, N and Z follow it. -/
def transferReg (dst src : Reg) (s : State) : Answer :=
  .next (((s.setReg dst (s.reg src)).setNZ (s.reg src)).advance .implicit)

/-- TAX, Implicit, opcode 0xAA (R600). -/
def execTax (s : State) : Answer := transferReg .X .A s

/-- TAY, Implicit, opcode 0xA8 (R601). -/
def execTay (s : State) : Answer := transferReg .Y .A s

/-- TXA, Implicit, opcode 0x8A (R602). -/
def execTxa (s : State) : Answer := transferReg .A .X s

/-- TYA, Implicit, opcode 0x98 (R603). -/
def execTya (s : State) : Answer := transferReg .A .Y s

/-- TSX, Implicit, opcode 0xBA (R604). -/
def execTsx (s : State) : Answer := transferReg .X .SP s

/-- TXS, Implicit, opcode 0x9A (R605). -/
def execTxs (s : State) : Answer := .next ((s.setReg .SP s.x).advance .implicit)

end Sys2Proof.Machine
end

