-- ==== Sys2Proof/Machine/Step.lean ====
section
/-! DEFINITION. One step, `ProcessInstruction` (spec/40_execute_cycle.md R400), and the state with an instruction placed where
the step fetches it. -/

namespace Sys2Proof.Machine

/-- `ProcessInstruction()` (R400): fetch at PC, decode, run. An illegal opcode faults with nothing changed (R402). -/
def step (s : State) : Host.Outcome State Fault Refusal :=
  let (op, b1, b2) := s.fetched
  match decodeAt op b1 b2 with
  | none => .fault (.unknownOpcode s.pc op)
  | some i => exec i s

/-- `s` with the instruction whose bits are `w` (numbered as spec/opcode_table.json numbers them, the bits above `nbits` zero)
stored at PC, so that the very next step runs it. It stands for a load from outside the machine (log entry 5). -/
def State.withFetchWord (s : State) (nbits w : Nat) : State :=
  let v := w % 2 ^ nbits
  { s with mem := ((s.mem.write s.pc (byteOf v 0)).write (s.pc + 1) (byteOf v 1)).write (s.pc + 2) (byteOf v 2) }

end Sys2Proof.Machine
end

