-- ==== Sys2Proof/Machine/Transactions.lean ====
section
/-! DEFINITION. The host's operations on the block, each one atomic transaction (spec/00_scope.md R6, R14), and construction,
`Reset` and `LoadProgram` (spec/70_reset_and_hazards.md R1500 to R1504). -/

namespace Sys2Proof.Machine

/-- Construction (R1500): memory zeroed, the registers a draw (spec/00_scope.md R9): the arguments, any values, with bit 5 of
P set. A claim about a constructed block holds for every draw (log entry 6). -/
def construct (a x y sp : Byte) (pc : Addr) (p : Byte) : State :=
  { a := a, x := x, y := y, sp := sp, pc := pc, p := p ||| unusedBit, mem := [] }

/-- `Reset()` (R1502): every register written, PC from the reset vector, no memory written. It never fails. -/
def resetBlock (s : State) : State :=
  { a := 0x00, x := 0x00, y := 0x00, sp := 0xFF, pc := s.readWord resetVector, p := 0x24, mem := s.mem }

/-- Whether `n` bytes fit from `origin` to the top of the address space: not `origin + n > 0x10000` (spec/20_memory.md R205). -/
def fits (origin : Addr) (n : Nat) : Bool := decide (origin.toNat + n ≤ 65536)

/-- `copyBytes(origin, bytes)` (R205): checked before any write. -/
def copyBytes (origin : Addr) (bytes : List Byte) (s : State) : Answer :=
  if fits origin bytes.length then .next { s with mem := s.mem.writeBytes origin bytes }
  else .fault (.outOfMemory origin bytes.length)

/-- `LoadProgram(bytes, origin, entryPoint)` (R1503): checked first; the vector, then the bytes, which may overwrite it
(R1504), then `Reset`. -/
def loadProgram (bytes : List Byte) (origin entryPoint : Addr) (s : State) : Answer :=
  if fits origin bytes.length then
    .next (resetBlock { s with mem := (s.mem.writeWord resetVector entryPoint).writeBytes origin bytes })
  else .fault (.outOfMemory origin bytes.length)

/-- `readU8` (R201). -/
def readU8 (a : Addr) (s : State) : Byte := s.readByte a

/-- `readU16` (R203). -/
def readU16 (a : Addr) (s : State) : Addr := s.readWord a

/-- `writeU8` (R202, R223). -/
def writeU8 (a : Addr) (v : Byte) (s : State) : State := s.writeByte a v

/-- `writeU16` (R204, R223). -/
def writeU16 (a v : Addr) (s : State) : State := { s with mem := s.mem.writeWord a v }

/-- `Encode(mnemonic, mode)` (spec/30_encoding.md R310): the byte of the pair, or `UnsupportedEncoding`. -/
def encodeOpcode (mn : Mnemonic) (m : Mode) : Except Fault Byte :=
  match opcodeOf mn m with
  | some op => .ok op
  | none => .error (.unsupportedEncoding mn m)

/-- The cause codes, "the spec's own numbering" (spec/60_exceptions.md R1400). -/
def Fault.code : Fault → Nat
  | .unknownOpcode _ _ => 1
  | .unsupportedArithmeticMode _ _ => 2
  | .outOfMemory _ _ => 3
  | .unsupportedEncoding _ _ => 4
  | .parseError _ _ => 5

/-- How a transaction ends. -/
inductive Ending where
  | ok
  | fault (f : Fault)
  | refused (r : Refusal)
deriving DecidableEq, Repr

/-- An answer as the state the block is left in and the ending: a fault leaves it unchanged (spec/60_exceptions.md R1406). -/
def settle (s : State) : Answer → State × Ending
  | .next t => (t, .ok)
  | .fault f => (s, .fault f)
  | .refused r => (s, .refused r)

/-- `ProcessInstruction(count)` (spec/40_execute_cycle.md R408): `count` steps, stopping at the first fault; the steps before
it keep their effects. -/
def processInstructions : Nat → State → State × Ending
  | 0, s => (s, .ok)
  | k + 1, s =>
    match step s with
    | .next t => processInstructions k t
    | .fault f => (s, .fault f)
    | .refused r => (s, .refused r)

/-- The host's operations that may change the block's state (R14, spec/10_state.md R118). -/
inductive Transaction where
  | reset
  | loadProgram (bytes : List Byte) (origin entryPoint : Addr)
  | processInstruction
  | processInstructions (count : Nat)
  | writeU8 (a : Addr) (v : Byte)
  | writeU16 (a v : Addr)
  | copyBytes (origin : Addr) (bytes : List Byte)
deriving DecidableEq, Repr

/-- Run one transaction: the state it leaves and how it ends. -/
def transact (t : Transaction) (s : State) : State × Ending :=
  match t with
  | .reset => (resetBlock s, .ok)
  | .loadProgram bytes origin entryPoint => settle s (Sys2Proof.Machine.loadProgram bytes origin entryPoint s)
  | .processInstruction => settle s (step s)
  | .processInstructions count => Sys2Proof.Machine.processInstructions count s
  | .writeU8 a v => (Sys2Proof.Machine.writeU8 a v s, .ok)
  | .writeU16 a v => (Sys2Proof.Machine.writeU16 a v s, .ok)
  | .copyBytes origin bytes => settle s (Sys2Proof.Machine.copyBytes origin bytes s)

end Sys2Proof.Machine
end

