-- ==== Sys2Proof/Machine/Assembler.lean ====
section
/-! DEFINITION. The assembler's program-text syntax (spec/30_encoding.md R340 to R349): a tool outside the block
(spec/00_scope.md R4), whose output `loadProgram` takes. A text is a list of characters. -/

namespace Sys2Proof.Machine

/-- What `assemble` returns (R347). -/
structure AssembledProgram where
  bytes      : List Byte
  origin     : Addr
  entryPoint : Addr
deriving DecidableEq, Repr

/-- A mnemonic with its three letters. -/
def spell (c1 c2 c3 : Char) (mn : Mnemonic) : List Char × Mnemonic := ([c1, c2, c3], mn)

/-- The mnemonics with their three letters (R306, R341). -/
def mnemonicSpellings : List (List Char × Mnemonic) :=
  [spell 'L' 'D' 'A' .LDA, spell 'L' 'D' 'X' .LDX, spell 'L' 'D' 'Y' .LDY, spell 'S' 'T' 'A' .STA, spell 'S' 'T' 'X' .STX,
   spell 'S' 'T' 'Y' .STY, spell 'T' 'A' 'X' .TAX, spell 'T' 'A' 'Y' .TAY, spell 'T' 'X' 'A' .TXA, spell 'T' 'Y' 'A' .TYA,
   spell 'T' 'S' 'X' .TSX, spell 'T' 'X' 'S' .TXS, spell 'A' 'D' 'C' .ADC, spell 'S' 'B' 'C' .SBC, spell 'C' 'M' 'P' .CMP,
   spell 'C' 'P' 'X' .CPX, spell 'C' 'P' 'Y' .CPY, spell 'A' 'N' 'D' .AND, spell 'O' 'R' 'A' .ORA, spell 'E' 'O' 'R' .EOR,
   spell 'B' 'I' 'T' .BIT, spell 'A' 'S' 'L' .ASL, spell 'L' 'S' 'R' .LSR, spell 'R' 'O' 'L' .ROL, spell 'R' 'O' 'R' .ROR] ++
  [spell 'I' 'N' 'C' .INC, spell 'D' 'E' 'C' .DEC, spell 'I' 'N' 'X' .INX, spell 'I' 'N' 'Y' .INY, spell 'D' 'E' 'X' .DEX,
   spell 'D' 'E' 'Y' .DEY, spell 'B' 'P' 'L' .BPL, spell 'B' 'M' 'I' .BMI, spell 'B' 'V' 'C' .BVC, spell 'B' 'V' 'S' .BVS,
   spell 'B' 'C' 'C' .BCC, spell 'B' 'C' 'S' .BCS, spell 'B' 'N' 'E' .BNE, spell 'B' 'E' 'Q' .BEQ, spell 'J' 'M' 'P' .JMP,
   spell 'J' 'S' 'R' .JSR, spell 'R' 'T' 'S' .RTS, spell 'P' 'H' 'A' .PHA, spell 'P' 'H' 'P' .PHP, spell 'P' 'L' 'A' .PLA,
   spell 'P' 'L' 'P' .PLP, spell 'B' 'R' 'K' .BRK, spell 'R' 'T' 'I' .RTI, spell 'C' 'L' 'C' .CLC, spell 'S' 'E' 'C' .SEC,
   spell 'C' 'L' 'I' .CLI, spell 'S' 'E' 'I' .SEI, spell 'C' 'L' 'D' .CLD, spell 'S' 'E' 'D' .SED, spell 'C' 'L' 'V' .CLV,
   spell 'N' 'O' 'P' .NOP]

/-- A mnemonic token, "case-insensitive" (R341). -/
def parseMnemonic (tok : List Char) : Option Mnemonic :=
  (mnemonicSpellings.find? (fun e => e.1 == tok.map Char.toUpper)).map Prod.snd

/-- The branch mnemonics, whose two-digit operand is Relative (R342). -/
def isBranchMnemonic (mn : Mnemonic) : Bool := [.BPL, .BMI, .BVC, .BVS, .BCC, .BCS, .BNE, .BEQ].contains mn

/-- The value of a hex digit, in either case (R342). -/
def hexDigit (c : Char) : Option Nat :=
  if '0' ≤ c ∧ c ≤ '9' then some (c.toNat - '0'.toNat)
  else if 'a' ≤ c ∧ c ≤ 'f' then some (c.toNat - 'a'.toNat + 10)
  else if 'A' ≤ c ∧ c ≤ 'F' then some (c.toNat - 'A'.toNat + 10)
  else none

/-- The value of a run of hex digits, most significant first. -/
def hexValue : List Char → Nat → Option Nat
  | [], acc => some acc
  | c :: rest, acc =>
    match hexDigit c with
    | some d => hexValue rest (acc * 16 + d)
    | none => none

/-- `$` and two hex digits (R343). -/
def parseHex2 : List Char → Option Byte
  | ['$', h, l] => (hexValue [h, l] 0).map (BitVec.ofNat 8)
  | _ => none

/-- `$` and four hex digits (R343). -/
def parseHex4 : List Char → Option Addr
  | ['$', a, b, c, d] => (hexValue [a, b, c, d] 0).map (BitVec.ofNat 16)
  | _ => none

/-- The index suffix of a literal (R342, case 5). -/
inductive Suffix where
  | none | x | y
deriving DecidableEq, Repr

/-- A letter is X or Y in either case (R342). -/
def isLetter (upper : Char) (c : Char) : Bool := c.toUpper == upper

/-- Take a trailing `,X` or `,Y` off an operand. -/
def splitSuffix (tok : List Char) : List Char × Suffix :=
  match tok.reverse with
  | c :: ',' :: rest =>
    if isLetter 'X' c then (rest.reverse, .x) else if isLetter 'Y' c then (rest.reverse, .y) else (tok, .none)
  | _ => (tok, .none)

/-- Case 5 of R342: a hex literal and its suffix. A branch with an index suffix infers no mode. -/
def inferLiteral (mn : Mnemonic) (tok : List Char) : Option (Mode × OperandField) :=
  let (lit, suffix) := splitSuffix tok
  match parseHex2 lit, parseHex4 lit with
  | some b, _ =>
    match suffix with
    | .none => some (if isBranchMnemonic mn then .relative else .zeroPage, .byte b)
    | .x => if isBranchMnemonic mn then none else some (.zeroPageX, .byte b)
    | .y => if isBranchMnemonic mn then none else some (.zeroPageY, .byte b)
  | none, some w =>
    match suffix with
    | .none => some (.absolute, .word w)
    | .x => if isBranchMnemonic mn then none else some (.absoluteX, .word w)
    | .y => if isBranchMnemonic mn then none else some (.absoluteY, .word w)
  | none, none => none

/-- Case 4 of R342: what follows `(`. -/
def inferParen (tok : List Char) : Option (Mode × OperandField) :=
  match tok.reverse with
  | ')' :: c :: ',' :: rest =>
    if isLetter 'X' c then (parseHex2 rest.reverse).map fun b => (.xIndexedIndirect, .byte b) else none
  | c :: ',' :: ')' :: rest =>
    if isLetter 'Y' c then (parseHex2 rest.reverse).map fun b => (.indirectYIndexed, .byte b) else none
  | ')' :: rest => (parseHex4 rest.reverse).map fun w => (.indirect, .word w)
  | _ => none

/-- The mode and operand an operand token gives, by the first matching case of R342 (cases 2 to 5). -/
def inferOperand (mn : Mnemonic) (tok : List Char) : Option (Mode × OperandField) :=
  match tok with
  | ['A'] => some (.accumulator, .none)
  | ['a'] => some (.accumulator, .none)
  | '#' :: rest => (parseHex2 rest).map fun b => (.immediate, .byte b)
  | '(' :: rest => inferParen rest
  | _ => inferLiteral mn tok

/-- The bytes of a (mnemonic, mode, operand) triple (R345): the opcode, then the operand, low byte first. -/
def emit (mn : Mnemonic) (m : Mode) (f : OperandField) : Except ParseReason (List Byte) :=
  match encodeOpcode mn m with
  | .ok op => .ok (op :: f.bytes)
  | .error _ => .error .noTableEntry

/-- The bytes of a line, given its tokens (R340, R345). -/
def assembleTokens : List (List Char) → Except ParseReason (List Byte)
  | [] => .ok []
  | [m] =>
    match parseMnemonic m with
    | some mn => emit mn .implicit .none
    | none => .error .unknownMnemonic
  | [m, o] =>
    match parseMnemonic m with
    | some mn =>
      match inferOperand mn o with
      | some (mode, f) => emit mn mode f
      | none => .error .badOperand
    | none => .error .unknownMnemonic
  | _ :: _ :: _ :: _ => .error .extraToken

/-- A space or a tab (R340). -/
def isBlank (c : Char) : Bool := c == ' ' || c == '\t'

/-- The tokens of a line: its longest runs without a space or tab (R340). -/
def tokens : List Char → List (List Char)
  | [] => []
  | c :: rest =>
    if isBlank c then tokens rest
    else
      match rest, tokens rest with
      | d :: _, t :: ts => if isBlank d then [c] :: t :: ts else (c :: t) :: ts
      | _, ts => [c] :: ts

/-- The lines of a text: they end at LF, and a CR just before the LF is ignored (R340). -/
def lines : List Char → List (List Char)
  | [] => [[]]
  | '\n' :: rest => [] :: lines rest
  | '\r' :: '\n' :: rest => [] :: lines rest
  | c :: rest =>
    match lines rest with
    | l :: ls => (c :: l) :: ls
    | [] => [[c]]

/-- The bytes of the lines in order, the first of them numbered `n`; the first line that fails fails the whole (R345, R346). -/
def assembleLines : Nat → List (List Char) → Except Fault (List Byte)
  | _, [] => .ok []
  | n, l :: ls =>
    match assembleTokens (tokens l) with
    | .error r => .error (.parseError n r)
    | .ok bytes =>
      match assembleLines (n + 1) ls with
      | .error f => .error f
      | .ok more => .ok (bytes ++ more)

/-- `assemble(text, originAddress)` (R347): origin and entry point are the origin address; the fit is not checked (R349). -/
def assemble (text : List Char) (origin : Addr) : Except Fault AssembledProgram :=
  match assembleLines 1 (lines text) with
  | .error f => .error f
  | .ok bytes => .ok { bytes := bytes, origin := origin, entryPoint := origin }

end Sys2Proof.Machine
end

