-- ==== Sys2Proof/Safety.lean ====
section
/-! DEFINITION. What counts as a safe run, the invariant, reachability, frames, and which registers an instruction uses: the
terms claims are stated in. -/

namespace Sys2Proof.Machine

/-- The invariant of the block: memory is in its canonical form, and bit 5 of P is 1 (spec/10_state.md R107). -/
abbrev State.Inv (s : State) : Prop := s.mem.wf ∧ s.p.getLsbD 5 = true

/-- A step that does not fault (spec/60_exceptions.md R1407). -/
def StepsSafely (s : State) : Prop := ∃ t, step s = .next t

/-- A run of `count` steps in which no step faults: "A claim about a run takes 'no step faulted' as a premise" (R1407); its
end is final in the sense of spec/70_reset_and_hazards.md R1511. -/
def RunsSafely (count : Nat) (s : State) : Prop := (processInstructions count s).2 = .ok

/-- The states the host can bring a block to: construction, with any draw of the registers, then any transactions
(spec/00_scope.md R9, R14). -/
inductive Reachable : State → Prop where
  | construct (a x y sp : Byte) (pc : Addr) (p : Byte) : Reachable (construct a x y sp pc p)
  | transact (t : Transaction) (s : State) : Reachable s → Reachable (transact t s).1

/-- `i` completes at `s`, and `Q` holds of the next state. -/
def Answers (i : Instr) (s : State) (Q : State → Prop) : Prop := ∃ t, exec i s = .next t ∧ Q t

/-- The frame from `s` to `t`: every register but those in `regs`, every bit of P but those of `flags`, and every byte of
memory but those at `addrs` is unchanged. PC is not part of it. -/
def Keeps (s t : State) (regs : List Reg) (flags : List Flag) (addrs : List Addr) : Prop :=
  (∀ r, r ∉ regs → t.reg r = s.reg r) ∧
  (∀ k, (∀ f ∈ flags, k ≠ f.bit) → t.p.getLsbD k = s.p.getLsbD k) ∧
  (∀ a, a ∉ addrs → t.mem.read a = s.mem.read a)

/-- Z and N of `t` follow the byte `v` (spec/10_state.md R115). -/
def NZFollow (t : State) (v : Byte) : Prop := (t.flag .Z = true ↔ v = 0x00) ∧ (t.flag .N = true ↔ 128 ≤ v.toNat)

/-- What a target holds in `t`, its address taken in `s` (spec/30_encoding.md R331). -/
def targetValue (tgt : Target) (s t : State) : Byte :=
  match tgt with
  | .accumulator => t.a
  | .memory m => t.mem.read (ea m s)

/-- The registers a write to a target changes. -/
def Target.regs : Target → List Reg
  | .accumulator => [.A]
  | .memory _ => []

/-- The addresses a write to a target stores to, by the function the meanings use. -/
def Target.addrs (tgt : Target) (s : State) : List Addr :=
  match tgt with
  | .accumulator => []
  | .memory m => [ea m s]

/-- The mnemonics that read or write a register as a named operand (spec/10_state.md R101 to R104), index modes and the
Accumulator mode apart. -/
def Reg.mnemonics : Reg → List Mnemonic
  | .A => [.LDA, .PLA, .TXA, .TYA, .ADC, .SBC, .AND, .ORA, .EOR, .STA, .PHA, .TAX, .TAY, .CMP, .BIT]
  | .X => [.LDX, .TAX, .TSX, .INX, .DEX, .STX, .TXA, .TXS, .CPX]
  | .Y => [.LDY, .TAY, .INY, .DEY, .STY, .TYA, .CPY]
  | .SP => [.TXS, .TSX, .PHA, .PHP, .JSR, .BRK, .PLA, .PLP, .RTS, .RTI]

/-- The modes that use a register (R101 to R103). -/
def Reg.modes : Reg → List Mode
  | .A => [.accumulator]
  | .X => [.zeroPageX, .absoluteX, .xIndexedIndirect]
  | .Y => [.zeroPageY, .absoluteY, .indirectYIndexed]
  | .SP => []

/-- Whether an instruction reads or writes a register (R101 to R104). -/
def usesReg (i : Instr) (r : Reg) : Bool := r.mnemonics.contains i.mnemonic || r.modes.contains i.mode

/-- The mnemonics that write a register (R101 to R104, "Written by"); the Accumulator forms of the shifts apart. -/
def Reg.writers : Reg → List Mnemonic
  | .A => [.LDA, .PLA, .TXA, .TYA, .ADC, .SBC, .AND, .ORA, .EOR]
  | .X => [.LDX, .TAX, .TSX, .INX, .DEX]
  | .Y => [.LDY, .TAY, .INY, .DEY]
  | .SP => [.TXS, .PHA, .PHP, .JSR, .BRK, .PLA, .PLP, .RTS, .RTI]

/-- Whether an instruction writes a register (R101 to R104). -/
def writesReg (i : Instr) (r : Reg) : Bool :=
  r.writers.contains i.mnemonic || (r == .A && i.mode == .accumulator)

/-- The mnemonics that write a flag (spec/10_state.md R108 to R114, "Written by"). -/
def Flag.writers : Flag → List Mnemonic
  | .C => [.ADC, .SBC, .CMP, .CPX, .CPY, .ASL, .LSR, .ROL, .ROR, .CLC, .SEC, .PLP, .RTI]
  | .Z | .N => [.LDA, .LDX, .LDY, .TAX, .TAY, .TXA, .TYA, .TSX, .PLA, .ADC, .SBC, .AND, .ORA, .EOR, .CMP, .CPX, .CPY,
                .ASL, .LSR, .ROL, .ROR, .INC, .DEC, .INX, .INY, .DEX, .DEY, .BIT, .PLP, .RTI]
  | .I => [.SEI, .CLI, .BRK, .PLP, .RTI]
  | .D => [.SED, .CLD, .PLP, .RTI]
  | .B => [.PLP, .RTI]
  | .V => [.ADC, .SBC, .BIT, .CLV, .PLP, .RTI]

/-- The mnemonics that set PC themselves; every other takes the generic advance (spec/40_execute_cycle.md R405). -/
def controlMnemonics : List Mnemonic :=
  [.BPL, .BMI, .BVC, .BVS, .BCC, .BCS, .BNE, .BEQ, .JMP, .JSR, .RTS, .BRK, .RTI]

/-- The mnemonics that push (R104). -/
def pushMnemonics : List Mnemonic := [.PHA, .PHP, .JSR, .BRK]

/-- The mnemonics that write a byte at their effective address: stores and read-modify-write (spec/30_encoding.md R331). The
shifts write memory only in their memory forms. -/
def storeMnemonics : List Mnemonic := [.STA, .STX, .STY, .ASL, .LSR, .ROL, .ROR, .INC, .DEC]

end Sys2Proof.Machine
end

