-- ==== Sys2Proof/Certificates/Slice0/Obligations.lean ====
section
/-! DEFINITION. The statements for the provers. The predicates of `Sys2Proof.Claims` say, for one form of an instruction, its
opcode byte and what it does in full: the result, the flags, PC and the frame. -/

namespace Sys2Proof.Claims

open Sys2Proof.Machine

/-- A load (R500 to R502): the register takes the operand, Z and N follow it, PC moves `len` on, nothing else changes. -/
def Loads (r : Reg) (i : Instr) (op : Byte) (len : Nat) (o : Operand) (s : State) : Prop :=
  i.opcode = op ∧ Answers i s fun t =>
    t.reg r = readOperand o s ∧ NZFollow t (readOperand o s) ∧ t.pc = s.pc + BitVec.ofNat 16 len ∧ Keeps s t [r] [.Z, .N] []

/-- A store (R503 to R505): the byte at the effective address takes the register, PC moves `len` on, no flag and nothing else
changes. -/
def Stores (r : Reg) (i : Instr) (op : Byte) (len : Nat) (m : MemMode) (s : State) : Prop :=
  i.opcode = op ∧ Answers i s fun t =>
    t.mem.read (ea m s) = s.reg r ∧ t.pc = s.pc + BitVec.ofNat 16 len ∧ Keeps s t [] [] [ea m s]

/-- A transfer (R600 to R604): the destination takes the source, Z and N follow it, nothing else changes but PC. -/
def Transfers (dst src : Reg) (i : Instr) (op : Byte) (s : State) : Prop :=
  i.opcode = op ∧ Answers i s fun t =>
    t.reg dst = s.reg src ∧ NZFollow t (s.reg src) ∧ t.pc = s.pc + 1 ∧ Keeps s t [dst] [.Z, .N] []

/-- ADC of `m` (R700, R701): with D = 1 the fault and nothing else; with D = 0 the 9-bit sum, C its bit 8, V the signed
overflow, Z and N of the result. -/
def Adds (i : Instr) (op : Byte) (len : Nat) (o : Operand) (s : State) : Prop :=
  i.opcode = op ∧ (s.flag .D = true → exec i s = .fault (.unsupportedArithmeticMode s.pc op)) ∧
  (s.flag .D = false → Answers i s fun t =>
    let m := readOperand o s
    let sum := s.a.toNat + m.toNat + (s.flag .C).toNat
    t.a.toNat = sum % 256 ∧ (t.flag .C = true ↔ 256 ≤ sum) ∧
    (t.flag .V = true ↔ s.a.msb = m.msb ∧ s.a.msb ≠ t.a.msb) ∧ NZFollow t t.a ∧
    t.pc = s.pc + BitVec.ofNat 16 len ∧ Keeps s t [.A] [.N, .Z, .C, .V] [])

/-- SBC of `m` (R700, R702): with D = 1 the fault; with D = 0 the result `A - M - (1 - C) mod 256`, C = 1 iff
`A >= M + (1 - C)`, V from A, the complement of M and the result. -/
def Subtracts (i : Instr) (op : Byte) (len : Nat) (o : Operand) (s : State) : Prop :=
  i.opcode = op ∧ (s.flag .D = true → exec i s = .fault (.unsupportedArithmeticMode s.pc op)) ∧
  (s.flag .D = false → Answers i s fun t =>
    let m := readOperand o s
    let borrow := 1 - (s.flag .C).toNat
    (t.a.toNat : Int) = ((s.a.toNat : Int) - m.toNat - borrow) % 256 ∧ (t.flag .C = true ↔ m.toNat + borrow ≤ s.a.toNat) ∧
    (t.flag .V = true ↔ s.a.msb = (~~~m).msb ∧ s.a.msb ≠ t.a.msb) ∧ NZFollow t t.a ∧
    t.pc = s.pc + BitVec.ofNat 16 len ∧ Keeps s t [.A] [.N, .Z, .C, .V] [])

/-- V after ADC of `m` (R701, R706): with D = 0 it is 1 exactly when the exact signed sum does not fit in 8 bits. -/
def OverflowsAdding (i : Instr) (o : Operand) (s : State) : Prop :=
  s.flag .D = false → Answers i s fun t =>
    let sum := s.a.toInt + (readOperand o s).toInt + ((s.flag .C).toNat : Int)
    (t.flag .V = true ↔ ¬ (-128 ≤ sum ∧ sum ≤ 127))

/-- V after SBC of `m` (R702, R706): with D = 0 it is 1 exactly when the exact signed difference less the borrow does not fit in
8 bits. -/
def OverflowsSubtracting (i : Instr) (o : Operand) (s : State) : Prop :=
  s.flag .D = false → Answers i s fun t =>
    let difference := s.a.toInt - (readOperand o s).toInt - (1 - ((s.flag .C).toNat : Int))
    (t.flag .V = true ↔ ¬ (-128 ≤ difference ∧ difference ≤ 127))

/-- A compare (R703 to R705): C is `reg >= M` unsigned, Z is `reg = M`, N is bit 7 of the difference mod 256; no register and no
other flag changes, whatever D is. -/
def Compares (r : Reg) (i : Instr) (op : Byte) (len : Nat) (o : Operand) (s : State) : Prop :=
  i.opcode = op ∧ Answers i s fun t =>
    let m := readOperand o s
    (t.flag .C = true ↔ m.toNat ≤ (s.reg r).toNat) ∧ (t.flag .Z = true ↔ s.reg r = m) ∧
    (t.flag .N = true ↔ 128 ≤ ((s.reg r).toNat + 256 - m.toNat) % 256) ∧
    t.pc = s.pc + BitVec.ofNat 16 len ∧ Keeps s t [] [.N, .Z, .C] []

/-- A logic instruction (R800 to R802): A takes `f A M`, computed on the numbers; Z and N follow it. -/
def Combines (f : Nat → Nat → Nat) (i : Instr) (op : Byte) (len : Nat) (o : Operand) (s : State) : Prop :=
  i.opcode = op ∧ Answers i s fun t =>
    t.a.toNat = f s.a.toNat (readOperand o s).toNat ∧ NZFollow t t.a ∧ t.pc = s.pc + BitVec.ofNat 16 len ∧
    Keeps s t [.A] [.N, .Z] []

/-- BIT (R803): Z of `A & M`, N and V the bits 7 and 6 of M; A unchanged. -/
def TestsBits (i : Instr) (op : Byte) (len : Nat) (o : Operand) (s : State) : Prop :=
  i.opcode = op ∧ Answers i s fun t =>
    let m := readOperand o s
    (t.flag .Z = true ↔ s.a.toNat &&& m.toNat = 0) ∧ (t.flag .N = true ↔ 128 ≤ m.toNat) ∧
    (t.flag .V = true ↔ 64 ≤ m.toNat % 128) ∧ t.pc = s.pc + BitVec.ofNat 16 len ∧ Keeps s t [] [.N, .V, .Z] []

/-- A shift or rotate (R900 to R903): the target, A or the byte at the effective address, takes `res v c` for its old value `v`
and the old carry `c`; C takes `out v`; Z and N follow the result; nothing else changes. -/
def Shifts (res : Nat → Nat → Nat) (out : Nat → Nat) (i : Instr) (op : Byte) (len : Nat) (tgt : Target) (s : State) : Prop :=
  i.opcode = op ∧ Answers i s fun t =>
    let v := (readOperand tgt.operand s).toNat
    (targetValue tgt s t).toNat = res v (s.flag .C).toNat ∧ (t.flag .C).toNat = out v ∧ NZFollow t (targetValue tgt s t) ∧
    t.pc = s.pc + BitVec.ofNat 16 len ∧ Keeps s t tgt.regs [.N, .Z, .C] (tgt.addrs s)

/-- INC or DEC (R1000, R1001): the byte at the effective address moves by `d` mod 256; Z and N follow it; nothing else changes. -/
def StepsByte (d : Nat) (i : Instr) (op : Byte) (len : Nat) (m : MemMode) (s : State) : Prop :=
  i.opcode = op ∧ Answers i s fun t =>
    (t.mem.read (ea m s)).toNat = ((s.mem.read (ea m s)).toNat + d) % 256 ∧ NZFollow t (t.mem.read (ea m s)) ∧
    t.pc = s.pc + BitVec.ofNat 16 len ∧ Keeps s t [] [.N, .Z] [ea m s]

/-- INX, INY, DEX or DEY (R1002 to R1005): the register moves by `d` mod 256; Z and N follow it; nothing else changes. -/
def StepsReg (d : Nat) (r : Reg) (i : Instr) (op : Byte) (s : State) : Prop :=
  i.opcode = op ∧ Answers i s fun t =>
    (t.reg r).toNat = ((s.reg r).toNat + d) % 256 ∧ NZFollow t (t.reg r) ∧ t.pc = s.pc + 1 ∧ Keeps s t [r] [.N, .Z] []

/-- A conditional branch (R1101 to R1108, R328): taken when the flag is as wanted, to the signed offset from the address after the
branch, mod 65536; otherwise on to that address; nothing but PC changes. -/
def Branches (f : Flag) (wanted : Bool) (i : Instr) (op : Byte) (off : Byte) (s : State) : Prop :=
  i.opcode = op ∧ Answers i s fun t =>
    (s.flag f = wanted → (t.pc.toNat : Int) = (s.pc.toNat + 2 + off.toInt) % 65536) ∧
    (s.flag f ≠ wanted → t.pc.toNat = (s.pc.toNat + 2) % 65536) ∧ Keeps s t [] [] []

/-- A flag instruction (R1302 to R1308): one flag takes a value, PC moves one on, nothing else changes. -/
def WritesFlag (f : Flag) (v : Bool) (i : Instr) (op : Byte) (s : State) : Prop :=
  i.opcode = op ∧ Answers i s fun t => t.flag f = v ∧ t.pc = s.pc + 1 ∧ Keeps s t [] [f] []

/-- The 105 bytes R308 lists. -/
def illegalOpcodes : List Byte :=
  [0x02, 0x03, 0x04, 0x07, 0x0B, 0x0C, 0x0F, 0x12, 0x13, 0x14, 0x17, 0x1A, 0x1B, 0x1C, 0x1F] ++
  [0x22, 0x23, 0x27, 0x2B, 0x2F, 0x32, 0x33, 0x34, 0x37, 0x3A, 0x3B, 0x3C, 0x3F, 0x42, 0x43] ++
  [0x44, 0x47, 0x4B, 0x4F, 0x52, 0x53, 0x54, 0x57, 0x5A, 0x5B, 0x5C, 0x5F, 0x62, 0x63, 0x64] ++
  [0x67, 0x6B, 0x6F, 0x72, 0x73, 0x74, 0x77, 0x7A, 0x7B, 0x7C, 0x7F, 0x80, 0x82, 0x83, 0x87] ++
  [0x89, 0x8B, 0x8F, 0x92, 0x93, 0x97, 0x9B, 0x9C, 0x9E, 0x9F, 0xA3, 0xA7, 0xAB, 0xAF, 0xB2] ++
  [0xB3, 0xB7, 0xBB, 0xBF, 0xC2, 0xC3, 0xC7, 0xCB, 0xCF, 0xD2, 0xD3, 0xD4, 0xD7, 0xDA, 0xDB] ++
  [0xDC, 0xDF, 0xE2, 0xE3, 0xE7, 0xEB, 0xEF, 0xF2, 0xF3, 0xF4, 0xF7, 0xFA, 0xFB, 0xFC, 0xFF]

/-- The 56 mnemonics. -/
def allMnemonics : List Mnemonic := mnemonicSpellings.map Prod.snd

/-- The 13 modes. -/
def allModes : List Mode :=
  [.implicit, .accumulator, .immediate, .zeroPage, .zeroPageX, .zeroPageY, .relative, .absolute, .absoluteX, .absoluteY,
   .indirect, .xIndexedIndirect, .indirectYIndexed]

/-- The stack byte at an SP (R104): address 256 + SP. -/
def stackByte (s : State) (sp : Byte) : Byte := s.mem.read (BitVec.ofNat 16 (256 + sp.toNat))

end Sys2Proof.Claims

open Sys2Proof Sys2Proof.Machine Sys2Proof.Claims

/-- For every instruction i and every bytes after it, decode of the bytes of i followed by them is i and the bytes after it. (30_encoding.md section 1, R300, R304, R311) -/
def Obligations.DecodeOfEncodeIsTheInstruction : Prop :=
  ∀ (i : Instr) (rest : List Byte), decode (encode i ++ rest) = .ok (i, rest)

/-- If a sequence of bytes decodes to an instruction i and a rest, then it is the bytes of i followed by that rest, so each word has one meaning. (30_encoding.md section 1, R300, R309) -/
def Obligations.DecodedBytesAreTheEncoding : Prop :=
  ∀ (bytes rest : List Byte) (i : Instr), decode bytes = .ok (i, rest) → bytes = encode i ++ rest

/-- For every pair with Encode(m, d) = op, Decode(op) = (m, d, 1 + operandBytes(d)); for every op with Decode(op) = (m, d, n), Encode(m, d) = op; and the decoded length of an instruction is the number of bytes it is emitted as. (R311) -/
def Obligations.OpcodeLookupsAreInverse : Prop :=
  (∀ (m : Mnemonic) (d : Mode) (op : Byte), encodeOpcode m d = .ok op → decodeOpcode op = some (m, d, 1 + d.operandBytes)) ∧
  (∀ (op : Byte) (m : Mnemonic) (d : Mode) (n : Nat), decodeOpcode op = some (m, d, n) → encodeOpcode m d = .ok op) ∧
  (∀ i : Instr, decodeOpcode i.opcode = some (i.mnemonic, i.mode, (encode i).length))

/-- Encode(m, d) raises UnsupportedEncoding(m, d) for exactly the pairs no opcode decodes to; there are 56 mnemonics, 13 modes and 577 such pairs. (R310, R1404) -/
def Obligations.UndefinedPairsAreUnsupported : Prop :=
  (∀ (m : Mnemonic) (d : Mode),
    encodeOpcode m d = .error (.unsupportedEncoding m d) ↔ ¬ ∃ op n, decodeOpcode op = some (m, d, n)) ∧
  (∀ (m : Mnemonic) (d : Mode) (f : Fault), encodeOpcode m d = .error f → f = .unsupportedEncoding m d) ∧
  (∀ m : Mnemonic, m ∈ allMnemonics) ∧ allMnemonics.length = 56 ∧ (∀ d : Mode, d ∈ allModes) ∧ allModes.length = 13 ∧
  ((allMnemonics.product allModes).filter fun p => (opcodeOf p.1 p.2).isNone).length = 577

/-- Decode is none for exactly the 105 bytes R308 lists; where the byte at PC is one of them the step is the fault UnknownOpcode(pc, op), whatever the rest of the state. (R308, R1401, R402) -/
def Obligations.IllegalOpcodesFault : Prop :=
  illegalOpcodes.length = 105 ∧ illegalOpcodes.Nodup ∧ (∀ op : Byte, decodeOpcode op = none ↔ op ∈ illegalOpcodes) ∧
  ∀ s : State, s.mem.read s.pc ∈ illegalOpcodes → step s = .fault (.unknownOpcode s.pc (s.mem.read s.pc))

/-- LDA #$12, STX $34,Y, TXS, SBC ($56),Y, BIT $3412, ROR $3412,X, DEC $12, BNE $FC, JMP ($3412), PLP and BRK decode from their bytes. (30_encoding.md R306, 95_test_vectors.md V1515 to V1519) -/
def Obligations.WrittenOutWordsDecode : Prop :=
  decodeAt 0xA9 0x12 0x34 = some (.ldaImm 0x12) ∧ decodeAt 0x96 0x34 0x00 = some (.stxZpY 0x34) ∧
  decodeAt 0x9A 0x00 0x00 = some .txs ∧ decodeAt 0xF1 0x56 0x00 = some (.sbcIndY 0x56) ∧
  decodeAt 0x2C 0x12 0x34 = some (.bitAbs 0x3412) ∧ decodeAt 0x7E 0x12 0x34 = some (.rorAbsX 0x3412) ∧
  decodeAt 0xC6 0x12 0x34 = some (.decZp 0x12) ∧ decodeAt 0xD0 0xFC 0x00 = some (.bne 0xFC) ∧
  decodeAt 0x6C 0x12 0x34 = some (.jmpInd 0x3412) ∧ decodeAt 0x28 0x00 0x00 = some .plp ∧ decodeAt 0x00 0xFF 0xFF = some .brk ∧
  decodeAt 0x89 0x12 0x34 = none

/-- Where the bytes at PC, PC + 1 and PC + 2 (mod 65536) decode to i, the step at that state is exec of i at that state; exec itself sets PC. (40_execute_cycle.md R400, R401, R403, R303) -/
def Obligations.StepRunsDecodedInstruction : Prop :=
  ∀ (s : State) (i : Instr),
    decodeAt (s.mem.read s.pc) (s.mem.read (s.pc + 1)) (s.mem.read (s.pc + 2)) = some i → step s = exec i s

/-- If byte k of the encoding of i lies at PC + k mod 65536 for every k, then the step is exec of i, whatever the bytes after it. (30_encoding.md R303, 40_execute_cycle.md R400) -/
def Obligations.StepRunsTheInstructionStoredAtPC : Prop :=
  ∀ (s : State) (i : Instr),
    (∀ k : Nat, k < (encode i).length → (encode i)[k]? = some (s.mem.read (s.pc + BitVec.ofNat 16 k))) → step s = exec i s

/-- A step raises a fault f if and only if the byte at PC is illegal and f is UnknownOpcode(pc, op), or it decodes to ADC or SBC, D = 1, and f is UnsupportedArithmeticMode(pc, op); a load that faults raises OutOfMemory. That no step is refused is the clause of the model (log entry 18): R13 leaves a refusal to the model. (60_exceptions.md R1401, R1402, R1403, R1408, 00_scope.md R13, log entry 18) -/
def Obligations.StepFaultsExactly : Prop :=
  (∀ (s : State) (f : Fault), step s = .fault f ↔
    (decodeOpcode (s.mem.read s.pc) = none ∧ f = .unknownOpcode s.pc (s.mem.read s.pc)) ∨
    (∃ m d n, decodeOpcode (s.mem.read s.pc) = some (m, d, n) ∧ (m = .ADC ∨ m = .SBC) ∧ s.flag .D = true ∧
      f = .unsupportedArithmeticMode s.pc (s.mem.read s.pc))) ∧
  (∀ (s : State) (r : Refusal), step s ≠ .refused r) ∧
  (∀ (bytes : List Byte) (origin entryPoint : Addr) (s : State) (f : Fault),
    loadProgram bytes origin entryPoint s = .fault f → f = .outOfMemory origin bytes.length)

/-- For every instruction and state, unless it is ADC or SBC and D = 1, exec answers a next state; with D = 1 ADC and SBC answer the fault with their pc and opcode. (40_execute_cycle.md R406, R1402, R700) -/
def Obligations.EveryInstructionCompletesOutsideDecimal : Prop :=
  ∀ (i : Instr) (s : State),
    (¬ ((i.mnemonic = .ADC ∨ i.mnemonic = .SBC) ∧ s.flag .D = true) → ∃ t, exec i s = .next t) ∧
    ((i.mnemonic = .ADC ∨ i.mnemonic = .SBC) → s.flag .D = true →
      exec i s = .fault (.unsupportedArithmeticMode s.pc i.opcode))

/-- From every state with canonical memory and P bit 5 = 1, a step that answers a next state answers one with both; bit 5 is the rule of R107, the canonical memory form is the choice of log entry 10. (10_state.md R107, log entry 10) -/
def Obligations.StepKeepsTheInvariant : Prop :=
  ∀ s t : State, s.Inv → step s = .next t → t.Inv

/-- The invariant holds of State.reset; its memory form is the choice of log entry 10. (70_reset_and_hazards.md R1502, 10_state.md R107, log entry 10) -/
def Obligations.ResetMeetsTheInvariant : Prop :=
  State.reset.Inv

/-- In every state reached from construction, with any register draw, by any transactions of the host, P[5] = 1; every whole write of P forces it, and no flag write touches it. (R107) -/
def Obligations.UnusedBitIsOneInReachableStates : Prop :=
  (∀ s : State, Reachable s → s.p.getLsbD 5 = true) ∧ (∀ (s : State) (v : Byte), (s.setP v).p.getLsbD 5 = true) ∧
  (∀ (i : Instr) (s t : State), exec i s = .next t → s.p.getLsbD 5 = true → t.p.getLsbD 5 = true)

/-- In every state reached from construction by any transactions, memory has the canonical form (log entry 10). (20_memory.md section 1, R1500, log entry 10) -/
def Obligations.MemoryIsCanonicalInReachableStates : Prop :=
  ∀ s : State, Reachable s → s.mem.wf

/-- Two canonical memories that give the same byte at every address are the same list, so equal memories are equal data (log entry 10). (20_memory.md R201, log entry 10) -/
def Obligations.CanonicalMemoryIsUnique : Prop :=
  ∀ m n : Memory, m.wf → n.wf → (∀ a : Addr, m.read a = n.read a) → m = n

/-- An instruction that is not listed as writing a register (the Accumulator forms of the shifts write A) leaves that register as it was. (10_state.md R101, R102, R103, R104) -/
def Obligations.OnlyWritersChangeARegister : Prop :=
  ∀ (i : Instr) (s t : State) (r : Reg), exec i s = .next t → writesReg i r = false → t.reg r = s.reg r

/-- An instruction whose mnemonic is not among the listed writers of a flag leaves that flag as it was; B is written by PLP and RTI alone. (10_state.md R108, R109, R110, R111, R112, R113, R114) -/
def Obligations.OnlyWritersChangeAFlag : Prop :=
  ∀ (i : Instr) (s t : State) (f : Flag), exec i s = .next t → i.mnemonic ∉ f.writers → t.flag f = s.flag f

/-- An instruction that neither stores, shifts or steps memory nor pushes leaves every byte of memory as it was; one that pushes leaves every byte outside page 1; the Accumulator forms of the shifts leave all of memory. (20_memory.md R211, R214, R220, 30_encoding.md R331) -/
def Obligations.OnlyStoresAndPushesChangeMemory : Prop :=
  ∀ (i : Instr) (s t : State), exec i s = .next t →
    ((i.mnemonic ∉ storeMnemonics ∨ i.mode = .accumulator) → i.mnemonic ∉ pushMnemonics →
      ∀ a : Addr, t.mem.read a = s.mem.read a) ∧
    (i.mnemonic ∈ pushMnemonics → ∀ a : Addr, (a.toNat < 256 ∨ 512 ≤ a.toNat) → t.mem.read a = s.mem.read a)

/-- For every instruction that is no branch, JMP, JSR, RTS, BRK or RTI, the next PC is the instruction address plus its table length mod 65536. (40_execute_cycle.md R404, R405, 30_encoding.md R301) -/
def Obligations.GenericAdvanceOutsideControlTransfer : Prop :=
  ∀ (i : Instr) (s t : State), exec i s = .next t → i.mnemonic ∉ controlMnemonics →
    t.pc.toNat = (s.pc.toNat + (encode i).length) % 65536

/-- Where an instruction neither reads nor writes a register, running it with that register changed gives the same answer, a fault or a next state, with that register changed alike. (10_state.md R101, R102, R103, R104) -/
def Obligations.UnusedRegisterPassesThrough : Prop :=
  ∀ (i : Instr) (s : State) (r : Reg) (v : Byte), usesReg i r = false →
    (∀ t, exec i s = .next t → exec i (s.setReg r v) = .next (t.setReg r v)) ∧
    (∀ f, exec i s = .fault f → exec i (s.setReg r v) = .fault f)

/-- LDA loads its operand into A, Z and N follow it, PC moves by the length, and nothing else changes, in each of its eight forms with its opcode. (R500) -/
def Obligations.LdaLoadsA : Prop :=
  ∀ (s : State) (v b : Byte) (w : Addr),
    Loads .A (.ldaImm v) 0xA9 2 (.immediate v) s ∧
    Loads .A (.ldaZp b) 0xA5 2 (.memory (.zeroPage b)) s ∧
    Loads .A (.ldaZpX b) 0xB5 2 (.memory (.zeroPageX b)) s ∧
    Loads .A (.ldaAbs w) 0xAD 3 (.memory (.absolute w)) s ∧
    Loads .A (.ldaAbsX w) 0xBD 3 (.memory (.absoluteX w)) s ∧
    Loads .A (.ldaAbsY w) 0xB9 3 (.memory (.absoluteY w)) s ∧
    Loads .A (.ldaIndX b) 0xA1 2 (.memory (.xIndexedIndirect b)) s ∧
    Loads .A (.ldaIndY b) 0xB1 2 (.memory (.indirectYIndexed b)) s

/-- LDX and LDY load their operand into X or Y, Z and N follow it, PC moves by the length, and nothing else changes; LDX indexes by Y, LDY by X. (R501, R502) -/
def Obligations.LdxAndLdyLoadTheirRegister : Prop :=
  ∀ (s : State) (v b : Byte) (w : Addr),
    Loads .X (.ldxImm v) 0xA2 2 (.immediate v) s ∧
    Loads .X (.ldxZp b) 0xA6 2 (.memory (.zeroPage b)) s ∧
    Loads .X (.ldxZpY b) 0xB6 2 (.memory (.zeroPageY b)) s ∧
    Loads .X (.ldxAbs w) 0xAE 3 (.memory (.absolute w)) s ∧
    Loads .X (.ldxAbsY w) 0xBE 3 (.memory (.absoluteY w)) s ∧
    Loads .Y (.ldyImm v) 0xA0 2 (.immediate v) s ∧
    Loads .Y (.ldyZp b) 0xA4 2 (.memory (.zeroPage b)) s ∧
    Loads .Y (.ldyZpX b) 0xB4 2 (.memory (.zeroPageX b)) s ∧
    Loads .Y (.ldyAbs w) 0xAC 3 (.memory (.absolute w)) s ∧
    Loads .Y (.ldyAbsX w) 0xBC 3 (.memory (.absoluteX w)) s

/-- A store writes its register to the byte at the effective address, with no flag and nothing else changed but PC; 0x89 is no STA. (R503, R504, R505) -/
def Obligations.StoresWriteTheirRegister : Prop :=
  ∀ (s : State) (b : Byte) (w : Addr),
    decodeOpcode 0x89 = none ∧
    Stores .A (.staZp b) 0x85 2 (.zeroPage b) s ∧
    Stores .A (.staZpX b) 0x95 2 (.zeroPageX b) s ∧
    Stores .A (.staAbs w) 0x8D 3 (.absolute w) s ∧
    Stores .A (.staAbsX w) 0x9D 3 (.absoluteX w) s ∧
    Stores .A (.staAbsY w) 0x99 3 (.absoluteY w) s ∧
    Stores .A (.staIndX b) 0x81 2 (.xIndexedIndirect b) s ∧
    Stores .A (.staIndY b) 0x91 2 (.indirectYIndexed b) s ∧
    Stores .X (.stxZp b) 0x86 2 (.zeroPage b) s ∧
    Stores .X (.stxZpY b) 0x96 2 (.zeroPageY b) s ∧
    Stores .X (.stxAbs w) 0x8E 3 (.absolute w) s ∧
    Stores .Y (.styZp b) 0x84 2 (.zeroPage b) s ∧
    Stores .Y (.styZpX b) 0x94 2 (.zeroPageX b) s ∧
    Stores .Y (.styAbs w) 0x8C 3 (.absolute w) s

/-- A transfer copies its source and sets Z and N of it; TXS writes SP and no flag; nothing else changes but PC. (R600, R601, R602, R603, R604, R605) -/
def Obligations.TransfersCopyTheirSource : Prop :=
  ∀ s : State,
    Transfers .X .A .tax 0xAA s ∧
    Transfers .Y .A .tay 0xA8 s ∧
    Transfers .A .X .txa 0x8A s ∧
    Transfers .A .Y .tya 0x98 s ∧
    Transfers .X .SP .tsx 0xBA s ∧
    (Instr.opcode .txs = 0x9A ∧ Answers .txs s fun t => t.sp = s.x ∧ t.pc = s.pc + 1 ∧ Keeps s t [.SP] [] [])

/-- With D = 0 ADC adds its operand and C to A mod 256, C is bit 8 of the sum, V the signed overflow, Z and N follow the result; with D = 1 it faults with its pc and opcode; nothing else changes. (R701) -/
def Obligations.AdcAddsWithCarry : Prop :=
  ∀ (s : State) (v b : Byte) (w : Addr),
    Adds (.adcImm v) 0x69 2 (.immediate v) s ∧
    Adds (.adcZp b) 0x65 2 (.memory (.zeroPage b)) s ∧
    Adds (.adcZpX b) 0x75 2 (.memory (.zeroPageX b)) s ∧
    Adds (.adcAbs w) 0x6D 3 (.memory (.absolute w)) s ∧
    Adds (.adcAbsX w) 0x7D 3 (.memory (.absoluteX w)) s ∧
    Adds (.adcAbsY w) 0x79 3 (.memory (.absoluteY w)) s ∧
    Adds (.adcIndX b) 0x61 2 (.memory (.xIndexedIndirect b)) s ∧
    Adds (.adcIndY b) 0x71 2 (.memory (.indirectYIndexed b)) s

/-- With D = 0 SBC gives A - M - (1 - C) mod 256, C = 1 iff A >= M + (1 - C), V from the signs of A, the complement of M and the result; with D = 1 it faults; nothing else changes. (R702) -/
def Obligations.SbcSubtractsWithBorrow : Prop :=
  ∀ (s : State) (v b : Byte) (w : Addr),
    Subtracts (.sbcImm v) 0xE9 2 (.immediate v) s ∧
    Subtracts (.sbcZp b) 0xE5 2 (.memory (.zeroPage b)) s ∧
    Subtracts (.sbcZpX b) 0xF5 2 (.memory (.zeroPageX b)) s ∧
    Subtracts (.sbcAbs w) 0xED 3 (.memory (.absolute w)) s ∧
    Subtracts (.sbcAbsX w) 0xFD 3 (.memory (.absoluteX w)) s ∧
    Subtracts (.sbcAbsY w) 0xF9 3 (.memory (.absoluteY w)) s ∧
    Subtracts (.sbcIndX b) 0xE1 2 (.memory (.xIndexedIndirect b)) s ∧
    Subtracts (.sbcIndY b) 0xF1 2 (.memory (.indirectYIndexed b)) s

/-- With D = 0, V after ADC is 1 exactly when the sum of the signed readings and the carry lies outside -128..127, and V after SBC exactly when the signed difference less the borrow does, in each of their sixteen forms. (43_arithmetic.md R701, R702, R706) -/
def Obligations.OverflowIsSignedOutOfRange : Prop :=
  ∀ (s : State) (v b : Byte) (w : Addr),
    OverflowsAdding (.adcImm v) (.immediate v) s ∧
    OverflowsAdding (.adcZp b) (.memory (.zeroPage b)) s ∧
    OverflowsAdding (.adcZpX b) (.memory (.zeroPageX b)) s ∧
    OverflowsAdding (.adcAbs w) (.memory (.absolute w)) s ∧
    OverflowsAdding (.adcAbsX w) (.memory (.absoluteX w)) s ∧
    OverflowsAdding (.adcAbsY w) (.memory (.absoluteY w)) s ∧
    OverflowsAdding (.adcIndX b) (.memory (.xIndexedIndirect b)) s ∧
    OverflowsAdding (.adcIndY b) (.memory (.indirectYIndexed b)) s ∧
    OverflowsSubtracting (.sbcImm v) (.immediate v) s ∧
    OverflowsSubtracting (.sbcZp b) (.memory (.zeroPage b)) s ∧
    OverflowsSubtracting (.sbcZpX b) (.memory (.zeroPageX b)) s ∧
    OverflowsSubtracting (.sbcAbs w) (.memory (.absolute w)) s ∧
    OverflowsSubtracting (.sbcAbsX w) (.memory (.absoluteX w)) s ∧
    OverflowsSubtracting (.sbcAbsY w) (.memory (.absoluteY w)) s ∧
    OverflowsSubtracting (.sbcIndX b) (.memory (.xIndexedIndirect b)) s ∧
    OverflowsSubtracting (.sbcIndY b) (.memory (.indirectYIndexed b)) s

/-- A compare sets C to reg >= M unsigned, Z to equality, N to bit 7 of the difference; no register, V or other flag changes, whatever D is. (R703, R704, R705) -/
def Obligations.ComparesSetCarryZeroNegative : Prop :=
  ∀ (s : State) (v b : Byte) (w : Addr),
    Compares .A (.cmpImm v) 0xC9 2 (.immediate v) s ∧
    Compares .A (.cmpZp b) 0xC5 2 (.memory (.zeroPage b)) s ∧
    Compares .A (.cmpZpX b) 0xD5 2 (.memory (.zeroPageX b)) s ∧
    Compares .A (.cmpAbs w) 0xCD 3 (.memory (.absolute w)) s ∧
    Compares .A (.cmpAbsX w) 0xDD 3 (.memory (.absoluteX w)) s ∧
    Compares .A (.cmpAbsY w) 0xD9 3 (.memory (.absoluteY w)) s ∧
    Compares .A (.cmpIndX b) 0xC1 2 (.memory (.xIndexedIndirect b)) s ∧
    Compares .A (.cmpIndY b) 0xD1 2 (.memory (.indirectYIndexed b)) s ∧
    Compares .X (.cpxImm v) 0xE0 2 (.immediate v) s ∧
    Compares .X (.cpxZp b) 0xE4 2 (.memory (.zeroPage b)) s ∧
    Compares .X (.cpxAbs w) 0xEC 3 (.memory (.absolute w)) s ∧
    Compares .Y (.cpyImm v) 0xC0 2 (.immediate v) s ∧
    Compares .Y (.cpyZp b) 0xC4 2 (.memory (.zeroPage b)) s ∧
    Compares .Y (.cpyAbs w) 0xCC 3 (.memory (.absolute w)) s

/-- A logic instruction puts the bitwise and, or, or exclusive or of A and its operand in A, Z and N follow it, and nothing else changes but PC. (R800, R801, R802) -/
def Obligations.LogicCombinesIntoA : Prop :=
  ∀ (s : State) (v b : Byte) (w : Addr),
    Combines (· &&& ·) (.andImm v) 0x29 2 (.immediate v) s ∧
    Combines (· &&& ·) (.andZp b) 0x25 2 (.memory (.zeroPage b)) s ∧
    Combines (· &&& ·) (.andZpX b) 0x35 2 (.memory (.zeroPageX b)) s ∧
    Combines (· &&& ·) (.andAbs w) 0x2D 3 (.memory (.absolute w)) s ∧
    Combines (· &&& ·) (.andAbsX w) 0x3D 3 (.memory (.absoluteX w)) s ∧
    Combines (· &&& ·) (.andAbsY w) 0x39 3 (.memory (.absoluteY w)) s ∧
    Combines (· &&& ·) (.andIndX b) 0x21 2 (.memory (.xIndexedIndirect b)) s ∧
    Combines (· &&& ·) (.andIndY b) 0x31 2 (.memory (.indirectYIndexed b)) s ∧
    Combines (· ||| ·) (.oraImm v) 0x09 2 (.immediate v) s ∧
    Combines (· ||| ·) (.oraZp b) 0x05 2 (.memory (.zeroPage b)) s ∧
    Combines (· ||| ·) (.oraZpX b) 0x15 2 (.memory (.zeroPageX b)) s ∧
    Combines (· ||| ·) (.oraAbs w) 0x0D 3 (.memory (.absolute w)) s ∧
    Combines (· ||| ·) (.oraAbsX w) 0x1D 3 (.memory (.absoluteX w)) s ∧
    Combines (· ||| ·) (.oraAbsY w) 0x19 3 (.memory (.absoluteY w)) s ∧
    Combines (· ||| ·) (.oraIndX b) 0x01 2 (.memory (.xIndexedIndirect b)) s ∧
    Combines (· ||| ·) (.oraIndY b) 0x11 2 (.memory (.indirectYIndexed b)) s ∧
    Combines (· ^^^ ·) (.eorImm v) 0x49 2 (.immediate v) s ∧
    Combines (· ^^^ ·) (.eorZp b) 0x45 2 (.memory (.zeroPage b)) s ∧
    Combines (· ^^^ ·) (.eorZpX b) 0x55 2 (.memory (.zeroPageX b)) s ∧
    Combines (· ^^^ ·) (.eorAbs w) 0x4D 3 (.memory (.absolute w)) s ∧
    Combines (· ^^^ ·) (.eorAbsX w) 0x5D 3 (.memory (.absoluteX w)) s ∧
    Combines (· ^^^ ·) (.eorAbsY w) 0x59 3 (.memory (.absoluteY w)) s ∧
    Combines (· ^^^ ·) (.eorIndX b) 0x41 2 (.memory (.xIndexedIndirect b)) s ∧
    Combines (· ^^^ ·) (.eorIndY b) 0x51 2 (.memory (.indirectYIndexed b)) s

/-- BIT sets Z of A & M and N and V from bits 7 and 6 of M; A and everything else but PC are unchanged; 0x89 is no BIT. (R803) -/
def Obligations.BitTestsTheOperand : Prop :=
  ∀ (s : State) (b : Byte) (w : Addr),
    decodeOpcode 0x89 = none ∧
    TestsBits (.bitZp b) 0x24 2 (.memory (.zeroPage b)) s ∧
    TestsBits (.bitAbs w) 0x2C 3 (.memory (.absolute w)) s

/-- ASL doubles its target mod 256 and LSR halves it, C takes the bit moved out, Z and N follow the result, the old carry does not enter, and nothing else changes but PC. (R900, R901) -/
def Obligations.AslAndLsrShift : Prop :=
  ∀ (s : State) (b : Byte) (w : Addr),
    Shifts (fun v _ => 2 * v % 256) (· / 128) .aslAcc 0x0A 1 .accumulator s ∧
    Shifts (fun v _ => 2 * v % 256) (· / 128) (.aslZp b) 0x06 2 (.memory (.zeroPage b)) s ∧
    Shifts (fun v _ => 2 * v % 256) (· / 128) (.aslZpX b) 0x16 2 (.memory (.zeroPageX b)) s ∧
    Shifts (fun v _ => 2 * v % 256) (· / 128) (.aslAbs w) 0x0E 3 (.memory (.absolute w)) s ∧
    Shifts (fun v _ => 2 * v % 256) (· / 128) (.aslAbsX w) 0x1E 3 (.memory (.absoluteX w)) s ∧
    Shifts (fun v _ => v / 2) (· % 2) .lsrAcc 0x4A 1 .accumulator s ∧
    Shifts (fun v _ => v / 2) (· % 2) (.lsrZp b) 0x46 2 (.memory (.zeroPage b)) s ∧
    Shifts (fun v _ => v / 2) (· % 2) (.lsrZpX b) 0x56 2 (.memory (.zeroPageX b)) s ∧
    Shifts (fun v _ => v / 2) (· % 2) (.lsrAbs w) 0x4E 3 (.memory (.absolute w)) s ∧
    Shifts (fun v _ => v / 2) (· % 2) (.lsrAbsX w) 0x5E 3 (.memory (.absoluteX w)) s

/-- ROL and ROR move their target by one bit through the carry: the old C enters, C takes the bit moved out, Z and N follow the result, and nothing else changes but PC. (R902, R903) -/
def Obligations.RolAndRorRotate : Prop :=
  ∀ (s : State) (b : Byte) (w : Addr),
    Shifts (fun v c => (2 * v + c) % 256) (· / 128) .rolAcc 0x2A 1 .accumulator s ∧
    Shifts (fun v c => (2 * v + c) % 256) (· / 128) (.rolZp b) 0x26 2 (.memory (.zeroPage b)) s ∧
    Shifts (fun v c => (2 * v + c) % 256) (· / 128) (.rolZpX b) 0x36 2 (.memory (.zeroPageX b)) s ∧
    Shifts (fun v c => (2 * v + c) % 256) (· / 128) (.rolAbs w) 0x2E 3 (.memory (.absolute w)) s ∧
    Shifts (fun v c => (2 * v + c) % 256) (· / 128) (.rolAbsX w) 0x3E 3 (.memory (.absoluteX w)) s ∧
    Shifts (fun v c => v / 2 + 128 * c) (· % 2) .rorAcc 0x6A 1 .accumulator s ∧
    Shifts (fun v c => v / 2 + 128 * c) (· % 2) (.rorZp b) 0x66 2 (.memory (.zeroPage b)) s ∧
    Shifts (fun v c => v / 2 + 128 * c) (· % 2) (.rorZpX b) 0x76 2 (.memory (.zeroPageX b)) s ∧
    Shifts (fun v c => v / 2 + 128 * c) (· % 2) (.rorAbs w) 0x6E 3 (.memory (.absolute w)) s ∧
    Shifts (fun v c => v / 2 + 128 * c) (· % 2) (.rorAbsX w) 0x7E 3 (.memory (.absoluteX w)) s

/-- INC and DEC add or subtract one at the effective address mod 256, Z and N follow the result, C and V and everything else but PC are unchanged, with any D; neither has an Accumulator form. (R1000, R1001) -/
def Obligations.IncAndDecStepMemory : Prop :=
  ∀ (s : State) (b : Byte) (w : Addr),
    Mode.accumulator ∉ Mnemonic.INC.modes ∧ Mode.accumulator ∉ Mnemonic.DEC.modes ∧
    StepsByte 1 (.incZp b) 0xE6 2 (.zeroPage b) s ∧
    StepsByte 1 (.incZpX b) 0xF6 2 (.zeroPageX b) s ∧
    StepsByte 1 (.incAbs w) 0xEE 3 (.absolute w) s ∧
    StepsByte 1 (.incAbsX w) 0xFE 3 (.absoluteX w) s ∧
    StepsByte 255 (.decZp b) 0xC6 2 (.zeroPage b) s ∧
    StepsByte 255 (.decZpX b) 0xD6 2 (.zeroPageX b) s ∧
    StepsByte 255 (.decAbs w) 0xCE 3 (.absolute w) s ∧
    StepsByte 255 (.decAbsX w) 0xDE 3 (.absoluteX w) s

/-- The register moves by one mod 256, Z and N follow it, and nothing else changes but PC. (R1002, R1003, R1004, R1005) -/
def Obligations.IndexRegistersStep : Prop :=
  ∀ s : State,
    StepsReg 1 .X .inx 0xE8 s ∧
    StepsReg 1 .Y .iny 0xC8 s ∧
    StepsReg 255 .X .dex 0xCA s ∧
    StepsReg 255 .Y .dey 0x88 s

/-- A branch whose flag has the wanted value goes to the address after it plus the signed offset mod 65536, otherwise on to the address after it; nothing else changes. (R1101, R1102, R1103, R1104, R1105, R1106, R1107, R1108, R328) -/
def Obligations.BranchesGoToTheSignedOffset : Prop :=
  ∀ (s : State) (off : Byte),
    Branches .N false (.bpl off) 0x10 off s ∧
    Branches .N true (.bmi off) 0x30 off s ∧
    Branches .V false (.bvc off) 0x50 off s ∧
    Branches .V true (.bvs off) 0x70 off s ∧
    Branches .C false (.bcc off) 0x90 off s ∧
    Branches .C true (.bcs off) 0xB0 off s ∧
    Branches .Z false (.bne off) 0xD0 off s ∧
    Branches .Z true (.beq off) 0xF0 off s

/-- JMP Absolute goes to its operand; JMP Indirect to the word at the pointer, whose high byte at a pointer $xxFF comes from $xx00 when P_JMP_IND_WRAP and from the next address otherwise; nothing else changes. (R1109, R325) -/
def Obligations.JmpSetsPC : Prop :=
  ∀ (s : State) (w : Addr),
    (Instr.opcode (.jmpAbs w) = 0x4C ∧ Answers (.jmpAbs w) s fun t => t.pc = w ∧ Keeps s t [] [] []) ∧
    (Instr.opcode (.jmpInd w) = 0x6C ∧ Answers (.jmpInd w) s fun t =>
      t.pc.toNat % 256 = (s.mem.read w).toNat ∧
      (w.toNat % 256 ≠ 255 → t.pc.toNat / 256 = (s.mem.read (w + 1)).toNat) ∧
      (w.toNat % 256 = 255 → Config.jmpIndWrap = false → t.pc.toNat / 256 = (s.mem.read (w + 1)).toNat) ∧
      (w.toNat % 256 = 255 → Config.jmpIndWrap = true → t.pc.toNat / 256 = (s.mem.read (w - 255)).toNat) ∧
      Keeps s t [] [] [])

/-- JSR stores the high byte of PC + 2 at the stack byte of SP and the low byte at that of SP - 1, SP falls by 2 mod 256, PC takes the operand, and nothing else changes. (R1110) -/
def Obligations.JsrPushesReturnAddressMinusOne : Prop :=
  ∀ (s : State) (w : Addr), Instr.opcode (.jsrAbs w) = 0x20 ∧ Answers (.jsrAbs w) s fun t =>
    stackByte t s.sp = hi8 (s.pc + 2) ∧ stackByte t (s.sp - 1) = lo8 (s.pc + 2) ∧ t.sp = s.sp - 2 ∧ t.pc = w ∧
    Keeps s t [.SP] [] [stackAddr s.sp, stackAddr (s.sp - 1)]

/-- RTS sets PC to the pulled word plus one mod 65536, the low byte from the stack byte of SP + 1 and the high byte from that of SP + 2, SP rises by 2 mod 256, and nothing else changes. (R1111) -/
def Obligations.RtsPullsAndAddsOne : Prop :=
  ∀ s : State, Instr.opcode .rts = 0x60 ∧ Answers .rts s fun t =>
    t.pc.toNat = ((stackByte s (s.sp + 2)).toNat * 256 + (stackByte s (s.sp + 1)).toNat + 1) % 65536 ∧ t.sp = s.sp + 2 ∧
    Keeps s t [.SP] [] []

/-- PHA stores A at the stack byte of SP and SP falls by one mod 256, no flag changed; PLA raises SP by one mod 256, loads A from its stack byte, and Z and N follow it; nothing else changes but PC. (R1200, R1202, R214, R215) -/
def Obligations.PhaPushesAndPlaPullsA : Prop :=
  ∀ s : State,
    (Instr.opcode .pha = 0x48 ∧ Answers .pha s fun t =>
      stackByte t s.sp = s.a ∧ t.sp = s.sp - 1 ∧ t.pc = s.pc + 1 ∧ Keeps s t [.SP] [] [stackAddr s.sp]) ∧
    (Instr.opcode .pla = 0x68 ∧ Answers .pla s fun t =>
      t.a = stackByte s (s.sp + 1) ∧ t.sp = s.sp + 1 ∧ NZFollow t t.a ∧ t.pc = s.pc + 1 ∧
      Keeps s t [.A, .SP] [.N, .Z] [])

/-- PHP stores P, with bit 4 its own for Verbatim and 1 for Set, and changes no flag; PLP takes P from the pulled byte with bit 5 forced to 1; SP moves by one mod 256; nothing else changes but PC. (R1201, R1203) -/
def Obligations.PhpPushesAndPlpPullsStatus : Prop :=
  ∀ s : State,
    (Instr.opcode .php = 0x08 ∧ Answers .php s fun t =>
      (Config.phpB = .verbatim → stackByte t s.sp = s.p) ∧ (Config.phpB = .set → stackByte t s.sp = s.p ||| 0x10) ∧
      t.sp = s.sp - 1 ∧ t.pc = s.pc + 1 ∧ Keeps s t [.SP] [] [stackAddr s.sp]) ∧
    (Instr.opcode .plp = 0x28 ∧ Answers .plp s fun t =>
      t.p.getLsbD 5 = true ∧ (∀ k, k < 8 → k ≠ 5 → t.p.getLsbD k = (stackByte s (s.sp + 1)).getLsbD k) ∧ t.sp = s.sp + 1 ∧
      t.pc = s.pc + 1 ∧ (∀ r, r ≠ .SP → t.reg r = s.reg r) ∧ ∀ a : Addr, t.mem.read a = s.mem.read a)

/-- BRK stores the high and low bytes of PC + 2 and P | 0x30 at the stack bytes of SP, SP - 1 and SP - 2, SP falls by 3 mod 256, I becomes 1, PC takes the little-endian word at 0xFFFE; P.B, D and everything else are unchanged, whatever I was. (R1300, R1410) -/
def Obligations.BrkTakesTheBreakEntry : Prop :=
  ∀ s : State, Instr.opcode .brk = 0x00 ∧ Answers .brk s fun t =>
    stackByte t s.sp = hi8 (s.pc + 2) ∧ stackByte t (s.sp - 1) = lo8 (s.pc + 2) ∧ stackByte t (s.sp - 2) = s.p ||| 0x30 ∧
    t.sp = s.sp - 3 ∧ t.flag .I = true ∧
    t.pc.toNat = (s.mem.read 0xFFFF).toNat * 256 + (s.mem.read 0xFFFE).toNat ∧
    Keeps s t [.SP] [.I] [stackAddr s.sp, stackAddr (s.sp - 1), stackAddr (s.sp - 2)]

/-- RTI takes P from the first pulled byte with bit 5 forced to 1, PC from the next two, low byte first, with no increment; SP rises by 3 mod 256; A, X, Y and memory are unchanged. (R1301) -/
def Obligations.RtiRestoresStatusAndPC : Prop :=
  ∀ s : State, Instr.opcode .rti = 0x40 ∧ Answers .rti s fun t =>
    t.p.getLsbD 5 = true ∧ (∀ k, k < 8 → k ≠ 5 → t.p.getLsbD k = (stackByte s (s.sp + 1)).getLsbD k) ∧
    t.pc.toNat = (stackByte s (s.sp + 3)).toNat * 256 + (stackByte s (s.sp + 2)).toNat ∧ t.sp = s.sp + 3 ∧
    (∀ r, r ≠ .SP → t.reg r = s.reg r) ∧ ∀ a : Addr, t.mem.read a = s.mem.read a

/-- Each flag instruction writes its flag, PC moves one on, and nothing else changes; NOP changes PC alone. (R1302, R1303, R1304, R1305, R1306, R1307, R1308, R1309) -/
def Obligations.FlagInstructionsWriteOneFlag : Prop :=
  ∀ s : State,
    WritesFlag .C false .clc 0x18 s ∧
    WritesFlag .C true .sec 0x38 s ∧
    WritesFlag .I false .cli 0x58 s ∧
    WritesFlag .I true .sei 0x78 s ∧
    WritesFlag .D false .cld 0xD8 s ∧
    WritesFlag .D true .sed 0xF8 s ∧
    WritesFlag .V false .clv 0xB8 s ∧
    (Instr.opcode .nop = 0xEA ∧ Answers .nop s fun t => t.pc = s.pc + 1 ∧ Keeps s t [] [] [])

/-- From every state, JSR then RTS comes back to the address after the JSR with A, X, Y, SP and P as they were. (47_branch_jump.md R1110, R1111) -/
def Obligations.RtsReturnsAfterJsr : Prop :=
  ∀ (s : State) (w : Addr), Answers (.jsrAbs w) s fun t => Answers .rts t fun u =>
    u.pc = s.pc + 3 ∧ u.a = s.a ∧ u.x = s.x ∧ u.y = s.y ∧ u.sp = s.sp ∧ u.p = s.p

/-- From every state, BRK then RTI comes back to PC + 2 with A, X, Y and SP as they were and P equal to the old P with bits 4 and 5 set. (49_system_flags.md R1300, R1301, 60_exceptions.md R1411) -/
def Obligations.RtiReturnsAfterBrk : Prop :=
  ∀ s : State, Answers .brk s fun t => Answers .rti t fun u =>
    u.pc = s.pc + 2 ∧ u.a = s.a ∧ u.x = s.x ∧ u.y = s.y ∧ u.sp = s.sp ∧ u.p = s.p ||| 0x30

/-- From every state, PHA then PLA leaves A, X, Y and SP as they were; PHP then PLP, where bit 5 of P is 1, leaves P as it was for Verbatim and with bit 4 set for Set. (48_stack.md R1200 to R1203) -/
def Obligations.PullsUndoPushes : Prop :=
  (∀ s : State, Answers .pha s fun t => Answers .pla t fun u =>
    u.a = s.a ∧ u.x = s.x ∧ u.y = s.y ∧ u.sp = s.sp ∧ u.pc = s.pc + 2) ∧
  (∀ s : State, s.p.getLsbD 5 = true → Answers .php s fun t => Answers .plp t fun u =>
    (Config.phpB = .verbatim → u.p = s.p) ∧ (Config.phpB = .set → u.p = s.p ||| 0x10) ∧ u.sp = s.sp ∧ u.a = s.a)

/-- EA of ZeroPage is b1, of Absolute the operand word, of ZeroPageX and ZeroPageY the sum mod 256 in page 0, of AbsoluteX and AbsoluteY the sum mod 65536; an Immediate operand reads b1, an Accumulator operand A, and an operand of each of the eight memory modes the byte at its EA. (R321, R322, R323, R324, R330) -/
def Obligations.DirectAndIndexedAddresses : Prop :=
  ∀ (s : State) (b : Byte) (w : Addr),
    (ea (.zeroPage b) s).toNat = b.toNat ∧ ea (.absolute w) s = w ∧
    (ea (.zeroPageX b) s).toNat = (b.toNat + s.x.toNat) % 256 ∧ (ea (.zeroPageY b) s).toNat = (b.toNat + s.y.toNat) % 256 ∧
    (ea (.absoluteX w) s).toNat = (w.toNat + s.x.toNat) % 65536 ∧ (ea (.absoluteY w) s).toNat = (w.toNat + s.y.toNat) % 65536 ∧
    readOperand (.immediate b) s = b ∧ readOperand .accumulator s = s.a ∧
    ∀ m : MemMode, readOperand (.memory m) s = s.mem.read (ea m s)

/-- The pointer of (zp,X) is (b1 + X) mod 256 and that of (zp),Y is b1; the low byte is read there, the high byte at the next address, which after 0xFF is 0x0000 when P_ZP_PTR_WRAP and 0x0100 otherwise; (zp),Y adds Y mod 65536. (R326, R327) -/
def Obligations.ZeroPagePointerAddresses : Prop :=
  ∀ (s : State) (b : Byte),
    let word := fun (wrap : Bool) (ptr : Nat) =>
      (s.mem.read (BitVec.ofNat 16 (if wrap then (ptr + 1) % 256 else ptr + 1))).toNat * 256 + (s.mem.read (BitVec.ofNat 16 ptr)).toNat
    (ea (.xIndexedIndirect b) s).toNat = word Config.zpPtrWrap ((b.toNat + s.x.toNat) % 256) ∧
    (ea (.indirectYIndexed b) s).toNat = (word Config.zpPtrWrap b.toNat + s.y.toNat) % 65536

/-- For every state and mode, the effective addresses under the two values of P_ZP_PTR_WRAP are equal unless the mode reads a zero-page pointer at 0xFF; the Indirect ones under the two values of P_JMP_IND_WRAP unless the low byte of the pointer is 0xFF. (30_encoding.md R325, R326, R327) -/
def Obligations.PointerParametersMatterOnlyAtFF : Prop :=
  (∀ (m : MemMode) (s : State), eaWith true m s ≠ eaWith false m s →
    ∃ b : Byte, (m = .xIndexedIndirect b ∧ b + s.x = 0xFF) ∨ (m = .indirectYIndexed b ∧ b = 0xFF)) ∧
  (∀ (mem : Memory) (ptr : Addr), indirectWith true mem ptr ≠ indirectWith false mem ptr → ptr.toNat % 256 = 255)

/-- readU8 gives the byte at the address; writeU8 stores its byte there and changes no other byte; readU16 gives the high byte at addr + 1 mod 65536 and the low byte at addr; writeU16 then readU16 gives the word back at every address, 0xFFFF too, and changes no third byte; no write changes a register, PC or P; the transactions writeU8 and writeU16 are these writes. (R201, R202, R203, R204) -/
def Obligations.WordAccessIsLittleEndianAndWraps : Prop :=
  ∀ (s : State) (a v b : Addr) (u : Byte),
    readU8 a s = s.mem.read a ∧ readU8 b (writeU8 a u s) = (if b = a then u else readU8 b s) ∧
    (∀ r, (writeU8 a u s).reg r = s.reg r) ∧ (writeU8 a u s).pc = s.pc ∧ (writeU8 a u s).p = s.p ∧
    (readU16 a s).toNat = (readU8 (a + 1) s).toNat * 256 + (readU8 a s).toNat ∧
    readU16 a (writeU16 a v s) = v ∧ readU8 a (writeU16 a v s) = lo8 v ∧ readU8 (a + 1) (writeU16 a v s) = hi8 v ∧
    (b ≠ a → b ≠ a + 1 → readU8 b (writeU16 a v s) = readU8 b s) ∧
    (∀ r, (writeU16 a v s).reg r = s.reg r) ∧ (writeU16 a v s).pc = s.pc ∧ (writeU16 a v s).p = s.p ∧
    transact (.writeU8 a u) s = (writeU8 a u s, .ok) ∧ transact (.writeU16 a v) s = (writeU16 a v s, .ok)

/-- copyBytes raises OutOfMemory exactly when origin + n > 0x10000; otherwise byte i lies at origin + i, every other byte and every register is as before. (R205) -/
def Obligations.CopyBytesChecksThenCopies : Prop :=
  ∀ (origin : Addr) (bytes : List Byte) (s : State),
    (65536 < origin.toNat + bytes.length → copyBytes origin bytes s = .fault (.outOfMemory origin bytes.length)) ∧
    (origin.toNat + bytes.length ≤ 65536 → ∃ t, copyBytes origin bytes s = .next t ∧
      (∀ k v, bytes[k]? = some v → t.mem.read (BitVec.ofNat 16 (origin.toNat + k)) = v) ∧
      (∀ a : Addr, (a.toNat < origin.toNat ∨ origin.toNat + bytes.length ≤ a.toNat) → t.mem.read a = s.mem.read a) ∧
      (∀ r, t.reg r = s.reg r) ∧ t.pc = s.pc ∧ t.p = s.p)

/-- Reset leaves PC the little-endian word at 0xFFFC, SP 0xFF, A, X, Y zero, P with I and bit 5 set and all else clear, memory unchanged; a second Reset changes nothing. (R1502) -/
def Obligations.ResetWritesEveryRegister : Prop :=
  ∀ s : State,
    (resetBlock s).pc.toNat = (s.mem.read 0xFFFD).toNat * 256 + (s.mem.read 0xFFFC).toNat ∧ (resetBlock s).sp = 0xFF ∧
    (resetBlock s).a = 0x00 ∧ (resetBlock s).x = 0x00 ∧ (resetBlock s).y = 0x00 ∧
    (∀ f : Flag, (resetBlock s).flag f = decide (f = .I)) ∧ (resetBlock s).p.getLsbD 5 = true ∧
    (resetBlock s).mem = s.mem ∧ resetBlock (resetBlock s) = resetBlock s

/-- For every draw of the registers, Reset of the constructed block is State.reset, whose PC 0x0000 is the word at 0xFFFC of the zeroed memory (log entry 4). (70_reset_and_hazards.md R1500, R1502, log entry 4) -/
def Obligations.ResetStateIsResetAfterConstruction : Prop :=
  ∀ (a x y sp : Byte) (pc : Addr) (p : Byte), resetBlock (construct a x y sp pc p) = State.reset

/-- LoadProgram raises OutOfMemory exactly when origin + n > 0x10000; otherwise byte i lies at origin + i, the vector bytes the program does not cover hold the entry point, every other byte is as before, and the registers are those of Reset, PC the word now at the vector. (R1503, R1504) -/
def Obligations.LoadProgramLoadsAndResets : Prop :=
  ∀ (bytes : List Byte) (origin entryPoint : Addr) (s : State),
    (65536 < origin.toNat + bytes.length → loadProgram bytes origin entryPoint s = .fault (.outOfMemory origin bytes.length)) ∧
    (origin.toNat + bytes.length ≤ 65536 → ∃ t, loadProgram bytes origin entryPoint s = .next t ∧
      (∀ k v, bytes[k]? = some v → t.mem.read (BitVec.ofNat 16 (origin.toNat + k)) = v) ∧
      (∀ a : Addr, (a.toNat < origin.toNat ∨ origin.toNat + bytes.length ≤ a.toNat) → t.mem.read a =
        if a = 0xFFFC then lo8 entryPoint else if a = 0xFFFD then hi8 entryPoint else s.mem.read a) ∧
      t.a = 0x00 ∧ t.x = 0x00 ∧ t.y = 0x00 ∧ t.sp = 0xFF ∧ t.p = 0x24 ∧
      t.pc.toNat = (t.mem.read 0xFFFD).toNat * 256 + (t.mem.read 0xFFFC).toNat)

/-- A run of 0 steps changes nothing; a run of n + 1 steps from a state whose step answers a next state is a run of n steps from that state; a run of m + n steps is a run of m and, if that ends without a fault, a run of n from its state; a run that faults ends at a state where the next step raises that fault, and running on from there raises it again. (R408) -/
def Obligations.CountedRunStopsAtFirstFault : Prop :=
  (∀ s : State, processInstructions 0 s = (s, .ok)) ∧
  (∀ (n : Nat) (s t : State), step s = .next t → processInstructions (n + 1) s = processInstructions n t) ∧
  (∀ (m n : Nat) (s : State), processInstructions (m + n) s =
    if (processInstructions m s).2 = .ok then processInstructions n (processInstructions m s).1
    else processInstructions m s) ∧
  (∀ (n : Nat) (s u : State) (f : Fault), processInstructions n s = (u, .fault f) →
    step u = .fault f ∧ ∃ k, k < n ∧ processInstructions k s = (u, .ok)) ∧
  (∀ (n : Nat) (u : State) (f : Fault), step u = .fault f → processInstructions (n + 1) u = (u, .fault f))

/-- Every host transaction but a counted run, if it ends in a fault, leaves the block in exactly the state it started in; writes and Reset never fault. That none is refused is the clause of the model (log entry 18). (60_exceptions.md R1406, 00_scope.md R13, R14, log entry 18) -/
def Obligations.FailedTransactionLeavesTheState : Prop :=
  ∀ (t : Transaction) (s : State),
    ((∀ n, t ≠ .processInstructions n) → (transact t s).2 ≠ .ok → (transact t s).1 = s) ∧
    (∀ a v, (transact (.writeU8 a v) s).2 = .ok) ∧ (∀ a v, (transact (.writeU16 a v) s).2 = .ok) ∧
    (transact .reset s).2 = .ok ∧ ∀ r, (transact t s).2 ≠ .refused r

/-- If the tokens of a line assemble to some bytes, then there are no tokens and no bytes, or the bytes are the encoding of one instruction and decode to it with nothing left; its mnemonic is the one the first token parses to, and its mode and operand are Implicit and none where that token is alone, or those inferred from the one other token. (30_encoding.md R340, R341, R342, R345, R348, 95_test_vectors.md E1) -/
def Obligations.AssembledLineIsOneInstruction : Prop :=
  ∀ (toks : List (List Char)) (bytes : List Byte), assembleTokens toks = .ok bytes →
    (toks = [] ∧ bytes = []) ∨ ∃ i : Instr, bytes = encode i ∧ decode bytes = .ok (i, []) ∧
      ((∃ m, toks = [m] ∧ parseMnemonic m = some i.mnemonic ∧ i.mode = .implicit ∧ i.operand = .none) ∨
       ∃ m o, toks = [m, o] ∧ parseMnemonic m = some i.mnemonic ∧ inferOperand i.mnemonic o = some (i.mode, i.operand))
end

