-- ==== Sys2Proof/Laws/Bits.lean ====
section
/-! SUPPORT. The laws of the byte-order and extension helpers (spec/00_scope.md R10), on numbers. -/

namespace Sys2Proof

theorem join_toNat (h l : Byte) : (join h l).toNat = h.toNat * 256 + l.toNat := by
  have := h.isLt
  have := l.isLt
  rw [join, BitVec.toNat_ofNat]
  omega

theorem lo8_toNat (w : Addr) : (lo8 w).toNat = w.toNat % 256 := by simp [lo8]

theorem hi8_toNat (w : Addr) : (hi8 w).toNat = w.toNat / 256 := by
  have := w.isLt
  simp [hi8, Nat.shiftRight_eq_div_pow]
  omega

theorem join_hi_lo (w : Addr) : join (hi8 w) (lo8 w) = w := by
  apply BitVec.eq_of_toNat_eq
  rw [join_toNat, lo8_toNat, hi8_toNat]
  omega

theorem lo8_join (h l : Byte) : lo8 (join h l) = l := by
  apply BitVec.eq_of_toNat_eq
  rw [lo8_toNat, join_toNat]
  have := l.isLt
  omega

theorem hi8_join (h l : Byte) : hi8 (join h l) = h := by
  apply BitVec.eq_of_toNat_eq
  rw [hi8_toNat, join_toNat]
  have := l.isLt
  omega

theorem zext16_toNat (b : Byte) : (zext16 b).toNat = b.toNat := by
  have := b.isLt
  simp [zext16]
  omega

end Sys2Proof
end

