-- ==== Sys2Proof/Laws/Exec.lean ====
section
/-! SUPPORT. What `exec` is for each constructor, in one equation each: the shared meaning with its arguments. The provers
rewrite with these and then cite the lemma of the shared meaning (Sys2Proof/Laws/Meanings.lean). -/

namespace Sys2Proof.Machine

theorem exec_ldaImm (v : Byte) (s : State) : exec (.ldaImm v) s = loadReg .A (.immediate v) s := rfl
theorem exec_ldaZp (b : Byte) (s : State) : exec (.ldaZp b) s = loadReg .A (.memory (.zeroPage b)) s := rfl
theorem exec_ldaZpX (b : Byte) (s : State) : exec (.ldaZpX b) s = loadReg .A (.memory (.zeroPageX b)) s := rfl
theorem exec_ldaAbs (w : Addr) (s : State) : exec (.ldaAbs w) s = loadReg .A (.memory (.absolute w)) s := rfl
theorem exec_ldaAbsX (w : Addr) (s : State) : exec (.ldaAbsX w) s = loadReg .A (.memory (.absoluteX w)) s := rfl
theorem exec_ldaAbsY (w : Addr) (s : State) : exec (.ldaAbsY w) s = loadReg .A (.memory (.absoluteY w)) s := rfl
theorem exec_ldaIndX (b : Byte) (s : State) : exec (.ldaIndX b) s = loadReg .A (.memory (.xIndexedIndirect b)) s := rfl
theorem exec_ldaIndY (b : Byte) (s : State) : exec (.ldaIndY b) s = loadReg .A (.memory (.indirectYIndexed b)) s := rfl
theorem exec_ldxImm (v : Byte) (s : State) : exec (.ldxImm v) s = loadReg .X (.immediate v) s := rfl
theorem exec_ldxZp (b : Byte) (s : State) : exec (.ldxZp b) s = loadReg .X (.memory (.zeroPage b)) s := rfl
theorem exec_ldxZpY (b : Byte) (s : State) : exec (.ldxZpY b) s = loadReg .X (.memory (.zeroPageY b)) s := rfl
theorem exec_ldxAbs (w : Addr) (s : State) : exec (.ldxAbs w) s = loadReg .X (.memory (.absolute w)) s := rfl
theorem exec_ldxAbsY (w : Addr) (s : State) : exec (.ldxAbsY w) s = loadReg .X (.memory (.absoluteY w)) s := rfl
theorem exec_ldyImm (v : Byte) (s : State) : exec (.ldyImm v) s = loadReg .Y (.immediate v) s := rfl
theorem exec_ldyZp (b : Byte) (s : State) : exec (.ldyZp b) s = loadReg .Y (.memory (.zeroPage b)) s := rfl
theorem exec_ldyZpX (b : Byte) (s : State) : exec (.ldyZpX b) s = loadReg .Y (.memory (.zeroPageX b)) s := rfl
theorem exec_ldyAbs (w : Addr) (s : State) : exec (.ldyAbs w) s = loadReg .Y (.memory (.absolute w)) s := rfl
theorem exec_ldyAbsX (w : Addr) (s : State) : exec (.ldyAbsX w) s = loadReg .Y (.memory (.absoluteX w)) s := rfl
theorem exec_staZp (b : Byte) (s : State) : exec (.staZp b) s = storeReg .A (.zeroPage b) s := rfl
theorem exec_staZpX (b : Byte) (s : State) : exec (.staZpX b) s = storeReg .A (.zeroPageX b) s := rfl
theorem exec_staAbs (w : Addr) (s : State) : exec (.staAbs w) s = storeReg .A (.absolute w) s := rfl
theorem exec_staAbsX (w : Addr) (s : State) : exec (.staAbsX w) s = storeReg .A (.absoluteX w) s := rfl
theorem exec_staAbsY (w : Addr) (s : State) : exec (.staAbsY w) s = storeReg .A (.absoluteY w) s := rfl
theorem exec_staIndX (b : Byte) (s : State) : exec (.staIndX b) s = storeReg .A (.xIndexedIndirect b) s := rfl
theorem exec_staIndY (b : Byte) (s : State) : exec (.staIndY b) s = storeReg .A (.indirectYIndexed b) s := rfl
theorem exec_stxZp (b : Byte) (s : State) : exec (.stxZp b) s = storeReg .X (.zeroPage b) s := rfl
theorem exec_stxZpY (b : Byte) (s : State) : exec (.stxZpY b) s = storeReg .X (.zeroPageY b) s := rfl
theorem exec_stxAbs (w : Addr) (s : State) : exec (.stxAbs w) s = storeReg .X (.absolute w) s := rfl
theorem exec_styZp (b : Byte) (s : State) : exec (.styZp b) s = storeReg .Y (.zeroPage b) s := rfl
theorem exec_styZpX (b : Byte) (s : State) : exec (.styZpX b) s = storeReg .Y (.zeroPageX b) s := rfl
theorem exec_styAbs (w : Addr) (s : State) : exec (.styAbs w) s = storeReg .Y (.absolute w) s := rfl
theorem exec_tax (s : State) : exec .tax s = transferReg .X .A s := rfl
theorem exec_tay (s : State) : exec .tay s = transferReg .Y .A s := rfl
theorem exec_txa (s : State) : exec .txa s = transferReg .A .X s := rfl
theorem exec_tya (s : State) : exec .tya s = transferReg .A .Y s := rfl
theorem exec_tsx (s : State) : exec .tsx s = transferReg .X .SP s := rfl
theorem exec_txs (s : State) : exec .txs s = .next ((s.setReg .SP s.x).advance .implicit) := rfl
theorem exec_adcImm (v : Byte) (s : State) : exec (.adcImm v) s = adc 0x69 (.immediate v) s := rfl
theorem exec_adcZp (b : Byte) (s : State) : exec (.adcZp b) s = adc 0x65 (.memory (.zeroPage b)) s := rfl
theorem exec_adcZpX (b : Byte) (s : State) : exec (.adcZpX b) s = adc 0x75 (.memory (.zeroPageX b)) s := rfl
theorem exec_adcAbs (w : Addr) (s : State) : exec (.adcAbs w) s = adc 0x6D (.memory (.absolute w)) s := rfl
theorem exec_adcAbsX (w : Addr) (s : State) : exec (.adcAbsX w) s = adc 0x7D (.memory (.absoluteX w)) s := rfl
theorem exec_adcAbsY (w : Addr) (s : State) : exec (.adcAbsY w) s = adc 0x79 (.memory (.absoluteY w)) s := rfl
theorem exec_adcIndX (b : Byte) (s : State) : exec (.adcIndX b) s = adc 0x61 (.memory (.xIndexedIndirect b)) s := rfl
theorem exec_adcIndY (b : Byte) (s : State) : exec (.adcIndY b) s = adc 0x71 (.memory (.indirectYIndexed b)) s := rfl
theorem exec_sbcImm (v : Byte) (s : State) : exec (.sbcImm v) s = sbc 0xE9 (.immediate v) s := rfl
theorem exec_sbcZp (b : Byte) (s : State) : exec (.sbcZp b) s = sbc 0xE5 (.memory (.zeroPage b)) s := rfl
theorem exec_sbcZpX (b : Byte) (s : State) : exec (.sbcZpX b) s = sbc 0xF5 (.memory (.zeroPageX b)) s := rfl
theorem exec_sbcAbs (w : Addr) (s : State) : exec (.sbcAbs w) s = sbc 0xED (.memory (.absolute w)) s := rfl
theorem exec_sbcAbsX (w : Addr) (s : State) : exec (.sbcAbsX w) s = sbc 0xFD (.memory (.absoluteX w)) s := rfl
theorem exec_sbcAbsY (w : Addr) (s : State) : exec (.sbcAbsY w) s = sbc 0xF9 (.memory (.absoluteY w)) s := rfl
theorem exec_sbcIndX (b : Byte) (s : State) : exec (.sbcIndX b) s = sbc 0xE1 (.memory (.xIndexedIndirect b)) s := rfl
theorem exec_sbcIndY (b : Byte) (s : State) : exec (.sbcIndY b) s = sbc 0xF1 (.memory (.indirectYIndexed b)) s := rfl
theorem exec_cmpImm (v : Byte) (s : State) : exec (.cmpImm v) s = compareReg .A (.immediate v) s := rfl
theorem exec_cmpZp (b : Byte) (s : State) : exec (.cmpZp b) s = compareReg .A (.memory (.zeroPage b)) s := rfl
theorem exec_cmpZpX (b : Byte) (s : State) : exec (.cmpZpX b) s = compareReg .A (.memory (.zeroPageX b)) s := rfl
theorem exec_cmpAbs (w : Addr) (s : State) : exec (.cmpAbs w) s = compareReg .A (.memory (.absolute w)) s := rfl
theorem exec_cmpAbsX (w : Addr) (s : State) : exec (.cmpAbsX w) s = compareReg .A (.memory (.absoluteX w)) s := rfl
theorem exec_cmpAbsY (w : Addr) (s : State) : exec (.cmpAbsY w) s = compareReg .A (.memory (.absoluteY w)) s := rfl
theorem exec_cmpIndX (b : Byte) (s : State) : exec (.cmpIndX b) s = compareReg .A (.memory (.xIndexedIndirect b)) s := rfl
theorem exec_cmpIndY (b : Byte) (s : State) : exec (.cmpIndY b) s = compareReg .A (.memory (.indirectYIndexed b)) s := rfl
theorem exec_cpxImm (v : Byte) (s : State) : exec (.cpxImm v) s = compareReg .X (.immediate v) s := rfl
theorem exec_cpxZp (b : Byte) (s : State) : exec (.cpxZp b) s = compareReg .X (.memory (.zeroPage b)) s := rfl
theorem exec_cpxAbs (w : Addr) (s : State) : exec (.cpxAbs w) s = compareReg .X (.memory (.absolute w)) s := rfl
theorem exec_cpyImm (v : Byte) (s : State) : exec (.cpyImm v) s = compareReg .Y (.immediate v) s := rfl
theorem exec_cpyZp (b : Byte) (s : State) : exec (.cpyZp b) s = compareReg .Y (.memory (.zeroPage b)) s := rfl
theorem exec_cpyAbs (w : Addr) (s : State) : exec (.cpyAbs w) s = compareReg .Y (.memory (.absolute w)) s := rfl
theorem exec_andImm (v : Byte) (s : State) : exec (.andImm v) s = logicA (· &&& ·) (.immediate v) s := rfl
theorem exec_andZp (b : Byte) (s : State) : exec (.andZp b) s = logicA (· &&& ·) (.memory (.zeroPage b)) s := rfl
theorem exec_andZpX (b : Byte) (s : State) : exec (.andZpX b) s = logicA (· &&& ·) (.memory (.zeroPageX b)) s := rfl
theorem exec_andAbs (w : Addr) (s : State) : exec (.andAbs w) s = logicA (· &&& ·) (.memory (.absolute w)) s := rfl
theorem exec_andAbsX (w : Addr) (s : State) : exec (.andAbsX w) s = logicA (· &&& ·) (.memory (.absoluteX w)) s := rfl
theorem exec_andAbsY (w : Addr) (s : State) : exec (.andAbsY w) s = logicA (· &&& ·) (.memory (.absoluteY w)) s := rfl
theorem exec_andIndX (b : Byte) (s : State) : exec (.andIndX b) s = logicA (· &&& ·) (.memory (.xIndexedIndirect b)) s := rfl
theorem exec_andIndY (b : Byte) (s : State) : exec (.andIndY b) s = logicA (· &&& ·) (.memory (.indirectYIndexed b)) s := rfl
theorem exec_oraImm (v : Byte) (s : State) : exec (.oraImm v) s = logicA (· ||| ·) (.immediate v) s := rfl
theorem exec_oraZp (b : Byte) (s : State) : exec (.oraZp b) s = logicA (· ||| ·) (.memory (.zeroPage b)) s := rfl
theorem exec_oraZpX (b : Byte) (s : State) : exec (.oraZpX b) s = logicA (· ||| ·) (.memory (.zeroPageX b)) s := rfl
theorem exec_oraAbs (w : Addr) (s : State) : exec (.oraAbs w) s = logicA (· ||| ·) (.memory (.absolute w)) s := rfl
theorem exec_oraAbsX (w : Addr) (s : State) : exec (.oraAbsX w) s = logicA (· ||| ·) (.memory (.absoluteX w)) s := rfl
theorem exec_oraAbsY (w : Addr) (s : State) : exec (.oraAbsY w) s = logicA (· ||| ·) (.memory (.absoluteY w)) s := rfl
theorem exec_oraIndX (b : Byte) (s : State) : exec (.oraIndX b) s = logicA (· ||| ·) (.memory (.xIndexedIndirect b)) s := rfl
theorem exec_oraIndY (b : Byte) (s : State) : exec (.oraIndY b) s = logicA (· ||| ·) (.memory (.indirectYIndexed b)) s := rfl
theorem exec_eorImm (v : Byte) (s : State) : exec (.eorImm v) s = logicA (· ^^^ ·) (.immediate v) s := rfl
theorem exec_eorZp (b : Byte) (s : State) : exec (.eorZp b) s = logicA (· ^^^ ·) (.memory (.zeroPage b)) s := rfl
theorem exec_eorZpX (b : Byte) (s : State) : exec (.eorZpX b) s = logicA (· ^^^ ·) (.memory (.zeroPageX b)) s := rfl
theorem exec_eorAbs (w : Addr) (s : State) : exec (.eorAbs w) s = logicA (· ^^^ ·) (.memory (.absolute w)) s := rfl
theorem exec_eorAbsX (w : Addr) (s : State) : exec (.eorAbsX w) s = logicA (· ^^^ ·) (.memory (.absoluteX w)) s := rfl
theorem exec_eorAbsY (w : Addr) (s : State) : exec (.eorAbsY w) s = logicA (· ^^^ ·) (.memory (.absoluteY w)) s := rfl
theorem exec_eorIndX (b : Byte) (s : State) : exec (.eorIndX b) s = logicA (· ^^^ ·) (.memory (.xIndexedIndirect b)) s := rfl
theorem exec_eorIndY (b : Byte) (s : State) : exec (.eorIndY b) s = logicA (· ^^^ ·) (.memory (.indirectYIndexed b)) s := rfl
theorem exec_bitZp (b : Byte) (s : State) : exec (.bitZp b) s = bitTest (.memory (.zeroPage b)) s := rfl
theorem exec_bitAbs (w : Addr) (s : State) : exec (.bitAbs w) s = bitTest (.memory (.absolute w)) s := rfl
theorem exec_aslAcc (s : State) : exec .aslAcc s = shiftTarget aslResult leftCarry .accumulator s := rfl
theorem exec_aslZp (b : Byte) (s : State) : exec (.aslZp b) s = shiftTarget aslResult leftCarry (.memory (.zeroPage b)) s := rfl
theorem exec_aslZpX (b : Byte) (s : State) : exec (.aslZpX b) s = shiftTarget aslResult leftCarry (.memory (.zeroPageX b)) s := rfl
theorem exec_aslAbs (w : Addr) (s : State) : exec (.aslAbs w) s = shiftTarget aslResult leftCarry (.memory (.absolute w)) s := rfl
theorem exec_aslAbsX (w : Addr) (s : State) : exec (.aslAbsX w) s = shiftTarget aslResult leftCarry (.memory (.absoluteX w)) s := rfl
theorem exec_lsrAcc (s : State) : exec .lsrAcc s = shiftTarget lsrResult rightCarry .accumulator s := rfl
theorem exec_lsrZp (b : Byte) (s : State) : exec (.lsrZp b) s = shiftTarget lsrResult rightCarry (.memory (.zeroPage b)) s := rfl
theorem exec_lsrZpX (b : Byte) (s : State) : exec (.lsrZpX b) s = shiftTarget lsrResult rightCarry (.memory (.zeroPageX b)) s := rfl
theorem exec_lsrAbs (w : Addr) (s : State) : exec (.lsrAbs w) s = shiftTarget lsrResult rightCarry (.memory (.absolute w)) s := rfl
theorem exec_lsrAbsX (w : Addr) (s : State) : exec (.lsrAbsX w) s = shiftTarget lsrResult rightCarry (.memory (.absoluteX w)) s := rfl
theorem exec_rolAcc (s : State) : exec .rolAcc s = shiftTarget rolResult leftCarry .accumulator s := rfl
theorem exec_rolZp (b : Byte) (s : State) : exec (.rolZp b) s = shiftTarget rolResult leftCarry (.memory (.zeroPage b)) s := rfl
theorem exec_rolZpX (b : Byte) (s : State) : exec (.rolZpX b) s = shiftTarget rolResult leftCarry (.memory (.zeroPageX b)) s := rfl
theorem exec_rolAbs (w : Addr) (s : State) : exec (.rolAbs w) s = shiftTarget rolResult leftCarry (.memory (.absolute w)) s := rfl
theorem exec_rolAbsX (w : Addr) (s : State) : exec (.rolAbsX w) s = shiftTarget rolResult leftCarry (.memory (.absoluteX w)) s := rfl
theorem exec_rorAcc (s : State) : exec .rorAcc s = shiftTarget rorResult rightCarry .accumulator s := rfl
theorem exec_rorZp (b : Byte) (s : State) : exec (.rorZp b) s = shiftTarget rorResult rightCarry (.memory (.zeroPage b)) s := rfl
theorem exec_rorZpX (b : Byte) (s : State) : exec (.rorZpX b) s = shiftTarget rorResult rightCarry (.memory (.zeroPageX b)) s := rfl
theorem exec_rorAbs (w : Addr) (s : State) : exec (.rorAbs w) s = shiftTarget rorResult rightCarry (.memory (.absolute w)) s := rfl
theorem exec_rorAbsX (w : Addr) (s : State) : exec (.rorAbsX w) s = shiftTarget rorResult rightCarry (.memory (.absoluteX w)) s := rfl
theorem exec_incZp (b : Byte) (s : State) : exec (.incZp b) s = stepMem (· + 1) (.zeroPage b) s := rfl
theorem exec_incZpX (b : Byte) (s : State) : exec (.incZpX b) s = stepMem (· + 1) (.zeroPageX b) s := rfl
theorem exec_incAbs (w : Addr) (s : State) : exec (.incAbs w) s = stepMem (· + 1) (.absolute w) s := rfl
theorem exec_incAbsX (w : Addr) (s : State) : exec (.incAbsX w) s = stepMem (· + 1) (.absoluteX w) s := rfl
theorem exec_decZp (b : Byte) (s : State) : exec (.decZp b) s = stepMem (· - 1) (.zeroPage b) s := rfl
theorem exec_decZpX (b : Byte) (s : State) : exec (.decZpX b) s = stepMem (· - 1) (.zeroPageX b) s := rfl
theorem exec_decAbs (w : Addr) (s : State) : exec (.decAbs w) s = stepMem (· - 1) (.absolute w) s := rfl
theorem exec_decAbsX (w : Addr) (s : State) : exec (.decAbsX w) s = stepMem (· - 1) (.absoluteX w) s := rfl
theorem exec_inx (s : State) : exec .inx s = stepReg (· + 1) .X s := rfl
theorem exec_iny (s : State) : exec .iny s = stepReg (· + 1) .Y s := rfl
theorem exec_dex (s : State) : exec .dex s = stepReg (· - 1) .X s := rfl
theorem exec_dey (s : State) : exec .dey s = stepReg (· - 1) .Y s := rfl
theorem exec_bpl (off : Byte) (s : State) : exec (.bpl off) s = branchIf .N false off s := rfl
theorem exec_bmi (off : Byte) (s : State) : exec (.bmi off) s = branchIf .N true off s := rfl
theorem exec_bvc (off : Byte) (s : State) : exec (.bvc off) s = branchIf .V false off s := rfl
theorem exec_bvs (off : Byte) (s : State) : exec (.bvs off) s = branchIf .V true off s := rfl
theorem exec_bcc (off : Byte) (s : State) : exec (.bcc off) s = branchIf .C false off s := rfl
theorem exec_bcs (off : Byte) (s : State) : exec (.bcs off) s = branchIf .C true off s := rfl
theorem exec_bne (off : Byte) (s : State) : exec (.bne off) s = branchIf .Z false off s := rfl
theorem exec_beq (off : Byte) (s : State) : exec (.beq off) s = branchIf .Z true off s := rfl
theorem exec_jmpAbs (w : Addr) (s : State) : exec (.jmpAbs w) s = .next (s.setPC w) := rfl
theorem exec_jmpInd (w : Addr) (s : State) : exec (.jmpInd w) s = .next (s.setPC (eaIndirect w s)) := rfl
theorem exec_jsrAbs (w : Addr) (s : State) : exec (.jsrAbs w) s = .next ((s.pushWord (nextPC s.pc .absolute - 1)).setPC w) := rfl
theorem exec_rts (s : State) : exec .rts s = .next (s.pullWord.setPC (s.pulledWord + 1)) := rfl
theorem exec_pha (s : State) : exec .pha s = .next ((s.push s.a).advance .implicit) := rfl
theorem exec_php (s : State) : exec .php s = .next ((s.push (phpByte s.p)).advance .implicit) := rfl
theorem exec_pla (s : State) : exec .pla s = .next (((s.pull.setReg .A s.pulled).setNZ s.pulled).advance .implicit) := rfl
theorem exec_plp (s : State) : exec .plp s = .next ((s.pull.setP s.pulled).advance .implicit) := rfl
theorem exec_brk (s : State) : exec .brk s = .next (s.enterBreak (s.pc + 2)) := rfl
theorem exec_rti (s : State) : exec .rti s = .next s.returnFromBreak := rfl
theorem exec_clc (s : State) : exec .clc s = writeFlag .C false s := rfl
theorem exec_sec (s : State) : exec .sec s = writeFlag .C true s := rfl
theorem exec_cli (s : State) : exec .cli s = writeFlag .I false s := rfl
theorem exec_sei (s : State) : exec .sei s = writeFlag .I true s := rfl
theorem exec_cld (s : State) : exec .cld s = writeFlag .D false s := rfl
theorem exec_sed (s : State) : exec .sed s = writeFlag .D true s := rfl
theorem exec_clv (s : State) : exec .clv s = writeFlag .V false s := rfl
theorem exec_nop (s : State) : exec .nop s = .next (s.advance .implicit) := rfl

end Sys2Proof.Machine
end

