-- ==== Sys2Proof/Laws/Flags.lean ====
section
/-! SUPPORT. The laws of the status byte: what each flag write does to each bit of P. -/

namespace Sys2Proof.Machine

theorem Flag.bit_lt (f : Flag) : f.bit < 8 := by cases f <;> decide

/-- No named flag stands at bit 5 (R107). -/
theorem Flag.bit_ne_five (f : Flag) : f.bit ≠ 5 := by cases f <;> decide

theorem Flag.bit_inj {f g : Flag} : f.bit = g.bit ↔ f = g := by cases f <;> cases g <;> decide

theorem Flag.getLsbD_mask (f : Flag) (k : Nat) : f.mask.getLsbD k = decide (k = f.bit) := by
  simp [Flag.mask, BitVec.getLsbD_twoPow, f.bit_lt, eq_comm]

/-- What a flag write does to every bit of P. -/
theorem getLsbD_putFlag (p : Byte) (f : Flag) (v : Bool) (k : Nat) :
    (putFlag p f v).getLsbD k = if k = f.bit then v else p.getLsbD k := by
  have hf := f.bit_lt
  by_cases hk : k < 8
  · cases v <;> by_cases h : k = f.bit <;>
      simp only [putFlag, BitVec.getLsbD_and, BitVec.getLsbD_or, BitVec.getLsbD_not, Flag.getLsbD_mask, h, hk, hf,
        Bool.false_eq_true, if_true, if_false, decide_true, decide_false, Bool.not_true, Bool.not_false, Bool.and_true,
        Bool.and_false, Bool.or_true, Bool.or_false]
  · have h : k ≠ f.bit := by omega
    simp only [h, if_false, BitVec.getLsbD_of_ge _ _ (Nat.le_of_not_lt hk)]

@[simp] theorem getFlag_putFlag_same (p : Byte) (f : Flag) (v : Bool) : getFlag (putFlag p f v) f = v := by
  simp [getFlag, getLsbD_putFlag]

theorem getFlag_putFlag_other (p : Byte) {f g : Flag} (v : Bool) (h : g ≠ f) :
    getFlag (putFlag p f v) g = getFlag p g := by
  simp [getFlag, getLsbD_putFlag, Flag.bit_inj, h]

/-- What `SetNZ` does to every bit of P (R115): Z and N, nothing else. -/
theorem getLsbD_putNZ (p v : Byte) (k : Nat) :
    (putNZ p v).getLsbD k = if k = 7 then v.getLsbD 7 else if k = 1 then v == 0x00 else p.getLsbD k := by
  unfold putNZ; rw [getLsbD_putFlag, getLsbD_putFlag]; rfl

theorem getFlag_putFlag (p : Byte) (f g : Flag) (v : Bool) :
    getFlag (putFlag p f v) g = if g = f then v else getFlag p g := by
  by_cases h : g = f
  · subst h; simp
  · simp [h, getFlag_putFlag_other]

/-- What `SetNZ` does to each flag (R115). -/
theorem getFlag_putNZ (p v : Byte) (g : Flag) :
    getFlag (putNZ p v) g = if g = .N then v.getLsbD 7 else if g = .Z then v == 0x00 else getFlag p g := by
  simp only [putNZ, getFlag_putFlag]

/-- What BIT does to every bit of P (R803): Z, N and V, nothing else. -/
theorem getLsbD_putBitTest (p a m : Byte) (k : Nat) :
    (putBitTest p a m).getLsbD k =
      if k = 6 then m.getLsbD 6 else if k = 7 then m.getLsbD 7 else if k = 1 then a &&& m == 0x00 else p.getLsbD k := by
  unfold putBitTest; rw [getLsbD_putFlag, getLsbD_putFlag, getLsbD_putFlag]; rfl

theorem getLsbD_unusedBit (k : Nat) : unusedBit.getLsbD k = decide (k = 5) := by
  by_cases hk : k < 8
  · interval_cases k <;> decide
  · have : k ≠ 5 := by omega
    simp [this, BitVec.getLsbD_of_ge _ _ (Nat.le_of_not_lt hk)]

theorem getLsbD_breakBit (k : Nat) : breakBit.getLsbD k = decide (k = 4) := by
  by_cases hk : k < 8
  · interval_cases k <;> decide
  · have : k ≠ 4 := by omega
    simp [this, BitVec.getLsbD_of_ge _ _ (Nat.le_of_not_lt hk)]

end Sys2Proof.Machine
end

