-- ==== Sys2Proof/Laws/Memory.lean ====
section
/-! SUPPORT. The laws of memory: a read after a write, and that every memory operation keeps the canonical form. -/

namespace Sys2Proof.Machine

theorem Memory.lookup_insert_same (m : Memory) (a : Nat) (v : Byte) : (m.insert a v).lookup a = v := by
  induction m with
  | nil => simp [Memory.insert, Memory.lookup]
  | cons c rest ih =>
    obtain ⟨k, u⟩ := c
    by_cases h1 : a < k
    · simp [Memory.insert, Memory.lookup, h1]
    · by_cases h2 : a = k
      · simp [Memory.insert, Memory.lookup, h2]
      · have h3 : k ≠ a := fun e => h2 e.symm
        simp [Memory.insert, Memory.lookup, h1, h2, h3, ih]

theorem Memory.lookup_insert_other (m : Memory) {a b : Nat} (v : Byte) (h : b ≠ a) :
    (m.insert a v).lookup b = m.lookup b := by
  induction m with
  | nil => simp [Memory.insert, Memory.lookup, h.symm]
  | cons c rest ih =>
    obtain ⟨k, u⟩ := c
    by_cases h1 : a < k
    · simp [Memory.insert, Memory.lookup, h1, h.symm]
    · by_cases h2 : a = k
      · subst h2; simp [Memory.insert, Memory.lookup, h.symm]
      · simp [Memory.insert, Memory.lookup, h1, h2, ih]

theorem Memory.lookup_erase_same (m : Memory) (a : Nat) : (m.erase a).lookup a = 0x00 := by
  induction m with
  | nil => rfl
  | cons c rest ih =>
    obtain ⟨k, u⟩ := c
    by_cases h : k = a <;> simp [Memory.erase, Memory.lookup, h, ih]

theorem Memory.lookup_erase_other (m : Memory) {a b : Nat} (h : b ≠ a) : (m.erase a).lookup b = m.lookup b := by
  induction m with
  | nil => rfl
  | cons c rest ih =>
    obtain ⟨k, u⟩ := c
    by_cases h1 : k = a
    · subst h1; simp [Memory.erase, Memory.lookup, h.symm, ih]
    · simp [Memory.erase, Memory.lookup, h1, ih]

/-- R202: the byte written is the byte read. -/
@[simp] theorem Memory.read_write_same (m : Memory) (a : Addr) (v : Byte) : (m.write a v).read a = v := by
  by_cases h : v = 0x00
  · simp only [Memory.write, Memory.read, h, if_true]; exact Memory.lookup_erase_same m a.toNat
  · simp only [Memory.write, Memory.read, h, if_false]; exact Memory.lookup_insert_same m a.toNat v

/-- R202: a write "changes no other byte". -/
theorem Memory.read_write_other (m : Memory) {a b : Addr} (v : Byte) (h : b ≠ a) :
    (m.write a v).read b = m.read b := by
  have hn : b.toNat ≠ a.toNat := fun e => h (BitVec.eq_of_toNat_eq e)
  by_cases hv : v = 0x00
  · simp only [Memory.write, Memory.read, hv, if_true]; exact Memory.lookup_erase_other m hn
  · simp only [Memory.write, Memory.read, hv, if_false]; exact Memory.lookup_insert_other m v hn

/-- Both cases of a read after a write. -/
theorem Memory.read_write (m : Memory) (a b : Addr) (v : Byte) :
    (m.write a v).read b = if b = a then v else m.read b := by
  by_cases h : b = a
  · simp [h]
  · simp [h, Memory.read_write_other m v h]

theorem Memory.mem_insert {m : Memory} {a : Nat} {v : Byte} {c : Host.Cell} (h : c ∈ m.insert a v) :
    c = (a, v) ∨ c ∈ m := by
  induction m with
  | nil => simpa [Memory.insert] using h
  | cons d rest ih =>
    obtain ⟨k, u⟩ := d
    by_cases h1 : a < k
    · simpa [Memory.insert, h1] using h
    · by_cases h2 : a = k
      · subst h2
        simp only [Memory.insert, lt_irrefl, if_false, if_true, List.mem_cons] at h ⊢
        tauto
      · simp only [Memory.insert, h1, h2, if_false, List.mem_cons] at h ⊢
        rcases h with h | h
        · exact .inr (.inl h)
        · rcases ih h with h | h
          · exact .inl h
          · exact .inr (.inr h)

theorem Memory.mem_erase {m : Memory} {a : Nat} {c : Host.Cell} (h : c ∈ m.erase a) : c ∈ m := by
  induction m with
  | nil => simp [Memory.erase] at h
  | cons d rest ih =>
    obtain ⟨k, u⟩ := d
    by_cases h1 : k = a
    · simp only [Memory.erase, h1, if_true] at h; exact List.mem_cons_of_mem _ (ih h)
    · simp only [Memory.erase, h1, if_false, List.mem_cons] at h ⊢
      exact h.imp_right ih

theorem Memory.rising_insert {m : Memory} (a : Nat) (v : Byte) (h : m.Pairwise (fun c d => c.1 < d.1)) :
    (m.insert a v).Pairwise (fun c d => c.1 < d.1) := by
  induction m with
  | nil => simp [Memory.insert]
  | cons d rest ih =>
    obtain ⟨k, u⟩ := d
    obtain ⟨hk, hrest⟩ := List.pairwise_cons.mp h
    by_cases h1 : a < k
    · simp only [Memory.insert, h1, if_true]
      refine List.pairwise_cons.mpr ⟨fun c hc => ?_, h⟩
      rcases List.mem_cons.mp hc with hc | hc
      · simpa [hc] using h1
      · exact lt_trans h1 (hk c hc)
    · by_cases h2 : a = k
      · subst h2
        simp only [Memory.insert, lt_irrefl, if_false, if_true]
        exact List.pairwise_cons.mpr ⟨hk, hrest⟩
      · simp only [Memory.insert, h1, h2, if_false]
        refine List.pairwise_cons.mpr ⟨fun c hc => ?_, ih hrest⟩
        rcases Memory.mem_insert hc with hc | hc
        · subst hc; show k < a; omega
        · exact hk c hc

theorem Memory.rising_erase {m : Memory} (a : Nat) (h : m.Pairwise (fun c d => c.1 < d.1)) :
    (m.erase a).Pairwise (fun c d => c.1 < d.1) := by
  induction m with
  | nil => simp [Memory.erase]
  | cons d rest ih =>
    obtain ⟨k, u⟩ := d
    obtain ⟨hk, hrest⟩ := List.pairwise_cons.mp h
    by_cases h1 : k = a
    · simp only [Memory.erase, h1, if_true]; exact ih hrest
    · simp only [Memory.erase, h1, if_false]
      exact List.pairwise_cons.mpr ⟨fun c hc => hk c (Memory.mem_erase hc), ih hrest⟩

/-- A byte write keeps the canonical form. -/
theorem Memory.wf_write {m : Memory} (a : Addr) (v : Byte) (h : m.wf) : (m.write a v).wf := by
  obtain ⟨hr, hc⟩ := h
  by_cases hv : v = 0x00
  · simp only [Memory.write, hv, if_true]
    exact ⟨Memory.rising_erase _ hr, fun c hm => hc c (Memory.mem_erase hm)⟩
  · simp only [Memory.write, hv, if_false]
    refine ⟨Memory.rising_insert _ _ hr, fun c hm => ?_⟩
    rcases Memory.mem_insert hm with hm | hm
    · subst hm; exact ⟨a.isLt, hv⟩
    · exact hc c hm

/-- A word write keeps the canonical form. -/
theorem Memory.wf_writeWord {m : Memory} (a v : Addr) (h : m.wf) : (m.writeWord a v).wf :=
  Memory.wf_write _ _ (Memory.wf_write _ _ h)

/-- A run of byte writes keeps the canonical form. -/
theorem Memory.wf_writeBytes {m : Memory} (a : Addr) (bytes : List Byte) (h : m.wf) : (m.writeBytes a bytes).wf := by
  induction bytes generalizing m a with
  | nil => exact h
  | cons v rest ih => exact ih _ (Memory.wf_write a v h)

/-- A run of byte writes that fits changes no byte outside it (R205). -/
theorem Memory.read_writeBytes_outside (bytes : List Byte) : ∀ (m : Memory) (o : Addr), o.toNat + bytes.length ≤ 65536 →
    ∀ a : Addr, (a.toNat < o.toNat ∨ o.toNat + bytes.length ≤ a.toNat) → (m.writeBytes o bytes).read a = m.read a := by
  induction bytes with
  | nil => intros; rfl
  | cons v rest ih =>
    intro m o hf a ha
    simp only [List.length_cons] at hf ha
    have hne : a ≠ o := by rintro rfl; omega
    rw [Memory.writeBytes]
    by_cases hz : rest = []
    · subst hz; rw [Memory.writeBytes, Memory.read_write_other _ _ hne]
    · have hl : 0 < rest.length := List.length_pos_iff.mpr hz
      have h1 : (o + 1).toNat = o.toNat + 1 := by rw [BitVec.toNat_add]; simp; omega
      rw [ih _ _ (by omega) a (by omega), Memory.read_write_other _ _ hne]

/-- A run of byte writes that fits puts byte `k` at origin + `k` (R205). -/
theorem Memory.read_writeBytes_inside (bytes : List Byte) : ∀ (m : Memory) (o : Addr), o.toNat + bytes.length ≤ 65536 →
    ∀ k v, bytes[k]? = some v → (m.writeBytes o bytes).read (BitVec.ofNat 16 (o.toNat + k)) = v := by
  induction bytes with
  | nil => intro m o _ k v h; simp at h
  | cons u rest ih =>
    intro m o hf k v h
    simp only [List.length_cons] at hf
    rw [Memory.writeBytes]
    cases k with
    | zero =>
      simp at h; subst h
      have e : BitVec.ofNat 16 (o.toNat + 0) = o := by simp
      rw [e]
      by_cases hz : rest = []
      · subst hz; rw [Memory.writeBytes, Memory.read_write_same]
      · have hl : 0 < rest.length := List.length_pos_iff.mpr hz
        have h1 : (o + 1).toNat = o.toNat + 1 := by rw [BitVec.toNat_add]; simp; omega
        rw [Memory.read_writeBytes_outside _ _ _ (by omega) _ (by omega), Memory.read_write_same]
    | succ k =>
      simp at h
      have hk : k < rest.length := by by_contra hc; rw [List.getElem?_eq_none (by omega)] at h; cases h
      have h1 : (o + 1).toNat = o.toNat + 1 := by rw [BitVec.toNat_add]; simp; omega
      have := ih (m.write o u) (o + 1) (by omega) k v h
      rw [h1] at this
      rw [← this]; congr 2; omega

/-- Reset memory has the canonical form. -/
theorem Memory.wf_reset : State.reset.mem.wf := by simp [State.reset, Memory.wf]

end Sys2Proof.Machine
end

