-- ==== Sys2Proof/Laws/State.lean ====
section
/-! SUPPORT. The small lemmas of the state's updates: what each update does to each field, true by definition. -/

namespace Sys2Proof.Machine

@[simp] theorem State.reg_A (s : State) : s.reg .A = s.a := rfl
@[simp] theorem State.reg_X (s : State) : s.reg .X = s.x := rfl
@[simp] theorem State.reg_Y (s : State) : s.reg .Y = s.y := rfl
@[simp] theorem State.reg_SP (s : State) : s.reg .SP = s.sp := rfl

/-- A register write changes that register alone. -/
theorem State.setReg_reg (s : State) (r q : Reg) (v : Byte) : (s.setReg r v).reg q = if q = r then v else s.reg q := by
  cases r <;> cases q <;> rfl
@[simp] theorem State.setReg_reg_same (s : State) (r : Reg) (v : Byte) : (s.setReg r v).reg r = v := by cases r <;> rfl
@[simp] theorem State.setReg_pc (s : State) (r : Reg) (v : Byte) : (s.setReg r v).pc = s.pc := by cases r <;> rfl
@[simp] theorem State.setReg_p (s : State) (r : Reg) (v : Byte) : (s.setReg r v).p = s.p := by cases r <;> rfl
@[simp] theorem State.setReg_mem (s : State) (r : Reg) (v : Byte) : (s.setReg r v).mem = s.mem := by cases r <;> rfl

@[simp] theorem State.setFlag_a (s : State) (f : Flag) (v : Bool) : (s.setFlag f v).a = s.a := rfl
@[simp] theorem State.setFlag_x (s : State) (f : Flag) (v : Bool) : (s.setFlag f v).x = s.x := rfl
@[simp] theorem State.setFlag_y (s : State) (f : Flag) (v : Bool) : (s.setFlag f v).y = s.y := rfl
@[simp] theorem State.setFlag_sp (s : State) (f : Flag) (v : Bool) : (s.setFlag f v).sp = s.sp := rfl
@[simp] theorem State.setFlag_pc (s : State) (f : Flag) (v : Bool) : (s.setFlag f v).pc = s.pc := rfl
@[simp] theorem State.setFlag_p (s : State) (f : Flag) (v : Bool) : (s.setFlag f v).p = putFlag s.p f v := rfl
@[simp] theorem State.setFlag_mem (s : State) (f : Flag) (v : Bool) : (s.setFlag f v).mem = s.mem := rfl
@[simp] theorem State.setFlag_reg (s : State) (f : Flag) (v : Bool) (r : Reg) : (s.setFlag f v).reg r = s.reg r := by cases r <;> rfl

@[simp] theorem State.setNZ_a (s : State) (v : Byte) : (s.setNZ v).a = s.a := rfl
@[simp] theorem State.setNZ_x (s : State) (v : Byte) : (s.setNZ v).x = s.x := rfl
@[simp] theorem State.setNZ_y (s : State) (v : Byte) : (s.setNZ v).y = s.y := rfl
@[simp] theorem State.setNZ_sp (s : State) (v : Byte) : (s.setNZ v).sp = s.sp := rfl
@[simp] theorem State.setNZ_pc (s : State) (v : Byte) : (s.setNZ v).pc = s.pc := rfl
@[simp] theorem State.setNZ_p (s : State) (v : Byte) : (s.setNZ v).p = putNZ s.p v := rfl
@[simp] theorem State.setNZ_mem (s : State) (v : Byte) : (s.setNZ v).mem = s.mem := rfl
@[simp] theorem State.setNZ_reg (s : State) (v : Byte) (r : Reg) : (s.setNZ v).reg r = s.reg r := by cases r <;> rfl

@[simp] theorem State.setP_a (s : State) (v : Byte) : (s.setP v).a = s.a := rfl
@[simp] theorem State.setP_x (s : State) (v : Byte) : (s.setP v).x = s.x := rfl
@[simp] theorem State.setP_y (s : State) (v : Byte) : (s.setP v).y = s.y := rfl
@[simp] theorem State.setP_sp (s : State) (v : Byte) : (s.setP v).sp = s.sp := rfl
@[simp] theorem State.setP_pc (s : State) (v : Byte) : (s.setP v).pc = s.pc := rfl
@[simp] theorem State.setP_p (s : State) (v : Byte) : (s.setP v).p = v ||| unusedBit := rfl
@[simp] theorem State.setP_mem (s : State) (v : Byte) : (s.setP v).mem = s.mem := rfl
@[simp] theorem State.setP_reg (s : State) (v : Byte) (r : Reg) : (s.setP v).reg r = s.reg r := by cases r <;> rfl

@[simp] theorem State.setPC_a (s : State) (t : Addr) : (s.setPC t).a = s.a := rfl
@[simp] theorem State.setPC_x (s : State) (t : Addr) : (s.setPC t).x = s.x := rfl
@[simp] theorem State.setPC_y (s : State) (t : Addr) : (s.setPC t).y = s.y := rfl
@[simp] theorem State.setPC_sp (s : State) (t : Addr) : (s.setPC t).sp = s.sp := rfl
@[simp] theorem State.setPC_pc (s : State) (t : Addr) : (s.setPC t).pc = t := rfl
@[simp] theorem State.setPC_p (s : State) (t : Addr) : (s.setPC t).p = s.p := rfl
@[simp] theorem State.setPC_mem (s : State) (t : Addr) : (s.setPC t).mem = s.mem := rfl
@[simp] theorem State.setPC_reg (s : State) (t : Addr) (r : Reg) : (s.setPC t).reg r = s.reg r := by cases r <;> rfl

@[simp] theorem State.advance_a (s : State) (m : Mode) : (s.advance m).a = s.a := rfl
@[simp] theorem State.advance_x (s : State) (m : Mode) : (s.advance m).x = s.x := rfl
@[simp] theorem State.advance_y (s : State) (m : Mode) : (s.advance m).y = s.y := rfl
@[simp] theorem State.advance_sp (s : State) (m : Mode) : (s.advance m).sp = s.sp := rfl
@[simp] theorem State.advance_pc (s : State) (m : Mode) : (s.advance m).pc = nextPC s.pc m := rfl
@[simp] theorem State.advance_p (s : State) (m : Mode) : (s.advance m).p = s.p := rfl
@[simp] theorem State.advance_mem (s : State) (m : Mode) : (s.advance m).mem = s.mem := rfl
@[simp] theorem State.advance_reg (s : State) (m : Mode) (r : Reg) : (s.advance m).reg r = s.reg r := by cases r <;> rfl

@[simp] theorem State.writeByte_a (s : State) (a : Addr) (v : Byte) : (s.writeByte a v).a = s.a := rfl
@[simp] theorem State.writeByte_x (s : State) (a : Addr) (v : Byte) : (s.writeByte a v).x = s.x := rfl
@[simp] theorem State.writeByte_y (s : State) (a : Addr) (v : Byte) : (s.writeByte a v).y = s.y := rfl
@[simp] theorem State.writeByte_sp (s : State) (a : Addr) (v : Byte) : (s.writeByte a v).sp = s.sp := rfl
@[simp] theorem State.writeByte_pc (s : State) (a : Addr) (v : Byte) : (s.writeByte a v).pc = s.pc := rfl
@[simp] theorem State.writeByte_p (s : State) (a : Addr) (v : Byte) : (s.writeByte a v).p = s.p := rfl
@[simp] theorem State.writeByte_mem (s : State) (a : Addr) (v : Byte) : (s.writeByte a v).mem = s.mem.write a v := rfl
@[simp] theorem State.writeByte_reg (s : State) (a : Addr) (v : Byte) (r : Reg) : (s.writeByte a v).reg r = s.reg r := by cases r <;> rfl

@[simp] theorem State.push_a (s : State) (v : Byte) : (s.push v).a = s.a := rfl
@[simp] theorem State.push_x (s : State) (v : Byte) : (s.push v).x = s.x := rfl
@[simp] theorem State.push_y (s : State) (v : Byte) : (s.push v).y = s.y := rfl
@[simp] theorem State.push_sp (s : State) (v : Byte) : (s.push v).sp = s.sp - 1 := rfl
@[simp] theorem State.push_pc (s : State) (v : Byte) : (s.push v).pc = s.pc := rfl
@[simp] theorem State.push_p (s : State) (v : Byte) : (s.push v).p = s.p := rfl
@[simp] theorem State.push_mem (s : State) (v : Byte) : (s.push v).mem = s.mem.write (stackAddr s.sp) v := rfl
theorem State.push_reg (s : State) (v : Byte) (r : Reg) : (s.push v).reg r = if r = .SP then s.sp - 1 else s.reg r := by cases r <;> rfl

@[simp] theorem State.pull_a (s : State) : s.pull.a = s.a := rfl
@[simp] theorem State.pull_x (s : State) : s.pull.x = s.x := rfl
@[simp] theorem State.pull_y (s : State) : s.pull.y = s.y := rfl
@[simp] theorem State.pull_sp (s : State) : s.pull.sp = s.sp + 1 := rfl
@[simp] theorem State.pull_pc (s : State) : s.pull.pc = s.pc := rfl
@[simp] theorem State.pull_p (s : State) : s.pull.p = s.p := rfl
@[simp] theorem State.pull_mem (s : State) : s.pull.mem = s.mem := rfl
theorem State.pull_reg (s : State) (r : Reg) : s.pull.reg r = if r = .SP then s.sp + 1 else s.reg r := by cases r <;> rfl

/-- A flag written reads as written; every other flag is as before (R106). -/
theorem State.setFlag_flag (s : State) (f g : Flag) (v : Bool) : (s.setFlag f v).flag g = if g = f then v else s.flag g := by
  by_cases h : g = f
  · subst h; simp [State.flag]
  · simp [State.flag, h, getFlag_putFlag_other]

end Sys2Proof.Machine
end

