-- ==== Sys2Proof/Laws/Operands.lean ====
section
/-! SUPPORT. The laws of the resolver and the operand helpers: what they depend on, and what a target write does. -/

namespace Sys2Proof.Machine

/-- A target write to A changes A alone. -/
theorem writeTarget_accumulator (v : Byte) (s : State) : writeTarget .accumulator v s = { s with a := v } := rfl

/-- A target write to memory changes the byte at the effective address alone. -/
theorem writeTarget_memory (m : MemMode) (v : Byte) (s : State) :
    writeTarget (.memory m) v s = s.writeByte (ea m s) v := rfl

@[simp] theorem writeTarget_pc (t : Target) (v : Byte) (s : State) : (writeTarget t v s).pc = s.pc := by cases t <;> rfl
@[simp] theorem writeTarget_p (t : Target) (v : Byte) (s : State) : (writeTarget t v s).p = s.p := by cases t <;> rfl

/-- A register the mode does not index by does not enter the effective address. -/
theorem ea_setReg (m : MemMode) (s : State) (r : Reg) (v : Byte)
    (hx : r = .X → m.mode ≠ .zeroPageX ∧ m.mode ≠ .absoluteX ∧ m.mode ≠ .xIndexedIndirect)
    (hy : r = .Y → m.mode ≠ .zeroPageY ∧ m.mode ≠ .absoluteY ∧ m.mode ≠ .indirectYIndexed) :
    ea m (s.setReg r v) = ea m s := by
  cases r <;> cases m <;> simp_all [ea, eaWith, State.setReg, MemMode.mode]

/-- The stack byte is in page 1 (R104): its address is 0x0100 + SP. -/
theorem stackAddr_toNat (sp : Byte) : (stackAddr sp).toNat = 256 + sp.toNat := by
  have h : sp.toNat < 2 ^ 8 := sp.isLt
  simp only [stackAddr, zext16, BitVec.toNat_or, BitVec.toNat_setWidth]
  rw [Nat.mod_eq_of_lt (by omega : sp.toNat < 2 ^ 16)]
  have := Nat.two_pow_add_eq_or_of_lt h 1
  simpa using this.symm

theorem stackAddr_inj {p q : Byte} : stackAddr p = stackAddr q ↔ p = q := by
  constructor
  · intro h
    have := congrArg BitVec.toNat h
    rw [stackAddr_toNat, stackAddr_toNat] at this
    exact BitVec.eq_of_toNat_eq (by omega)
  · exact congrArg _

end Sys2Proof.Machine
end

