-- ==== Sys2Proof/Laws/Meanings.lean ====
section
/-! SUPPORT. One lemma for each shared meaning: everything it can do. The provers cite these and do not unfold the meanings. -/

namespace Sys2Proof.Machine

/-- `SetNZ(v)` makes Z and N follow `v` (R115). -/
theorem nzFollow_of_putNZ {t : State} {p v : Byte} (h : t.p = putNZ p v) : NZFollow t v := by
  constructor
  · simp only [State.flag, getFlag, h, getLsbD_putNZ, Flag.bit]; simp
  · have hv : v.getLsbD 7 = v.msb := by rw [BitVec.msb_eq_getLsbD_last]
    simp only [State.flag, getFlag, h, getLsbD_putNZ, Flag.bit, if_true, hv, BitVec.msb_eq_decide]; simp

/-- A load (R500 to R502). -/
theorem loadReg_next {r : Reg} {o : Operand} {s t : State} (h : loadReg r o s = .next t) :
    t.reg r = readOperand o s ∧ NZFollow t (readOperand o s) ∧ t.pc = nextPC s.pc o.mode ∧ Keeps s t [r] [.Z, .N] [] := by
  injection h with h; subst h
  refine ⟨by simp, nzFollow_of_putNZ (p := s.p) (by simp), by simp, ?_, ?_, fun a _ => by simp⟩
  · intro q hq; simp [State.setReg_reg, List.mem_singleton.not.mp hq]
  · intro k hk
    have h1 : k ≠ 1 := hk .Z (by simp)
    have h7 : k ≠ 7 := hk .N (by simp)
    simp only [State.advance_p, State.setNZ_p, State.setReg_p, getLsbD_putNZ, h1, h7, if_false]

/-- A store (R503 to R505). -/
theorem storeReg_next {r : Reg} {m : MemMode} {s t : State} (h : storeReg r m s = .next t) :
    t.mem.read (ea m s) = s.reg r ∧ t.pc = nextPC s.pc m.mode ∧ Keeps s t [] [] [ea m s] := by
  injection h with h; subst h
  refine ⟨by simp [writeTarget_memory], by simp, ?_, ?_, ?_⟩
  · intro q _; simp [writeTarget_memory]
  · intro k _; simp
  · intro a ha; simp [writeTarget_memory, Memory.read_write_other _ _ (List.mem_singleton.not.mp ha)]

/-- A transfer (R600 to R604). -/
theorem transferReg_next {d r : Reg} {s t : State} (h : transferReg d r s = .next t) :
    t.reg d = s.reg r ∧ NZFollow t (s.reg r) ∧ t.pc = nextPC s.pc .implicit ∧ Keeps s t [d] [.Z, .N] [] := by
  injection h with h; subst h
  refine ⟨by simp, nzFollow_of_putNZ (p := s.p) (by simp), by simp, ?_, ?_, fun a _ => by simp⟩
  · intro q hq; simp [State.setReg_reg, List.mem_singleton.not.mp hq]
  · intro k hk
    have h1 : k ≠ 1 := hk .Z (by simp)
    have h7 : k ≠ 7 := hk .N (by simp)
    simp only [State.advance_p, State.setNZ_p, State.setReg_p, getLsbD_putNZ, h1, h7, if_false]

/-- The sum of ADC and SBC (R701): A, C, V, N and Z. -/
theorem addToA_effect (m : Byte) (s : State) :
    (addToA m s).a = addResult s.a m (s.flag .C) ∧ (addToA m s).flag .C = addCarry s.a m (s.flag .C) ∧
    (addToA m s).flag .V = addOverflow s.a m (s.flag .C) ∧ NZFollow (addToA m s) (addResult s.a m (s.flag .C)) ∧
    (addToA m s).pc = s.pc ∧ Keeps s (addToA m s) [.A] [.C, .V, .N, .Z] [] := by
  refine ⟨by simp [addToA, State.setReg], ?_, ?_, nzFollow_of_putNZ (p := _) (by simp [addToA]; rfl), by simp [addToA], ?_, ?_,
    fun a _ => by simp [addToA]⟩
  · simp [addToA, State.flag, getFlag_putNZ, getFlag_putFlag]
  · simp [addToA, State.flag, getFlag_putNZ]
  · intro q hq; simp [addToA, State.setReg_reg, List.mem_singleton.not.mp hq]
  · intro k hk
    have h0 : k ≠ 0 := hk .C (by simp)
    have h1 : k ≠ 1 := hk .Z (by simp)
    have h6 : k ≠ 6 := hk .V (by simp)
    have h7 : k ≠ 7 := hk .N (by simp)
    simp [addToA, getLsbD_putNZ, getLsbD_putFlag, Flag.bit, h0, h1, h6, h7]

/-- The decimal guard (R700): with D = 1 the fault, with D = 0 the effect. -/
theorem decimalGuard_cases (op : Byte) (s e : State) :
    (s.flag .D = true ∧ decimalGuard op s e = .fault (.unsupportedArithmeticMode s.pc op)) ∨
    (s.flag .D = false ∧ decimalGuard op s e = .next e) := by
  cases h : s.flag .D <;> simp [decimalGuard, h]

/-- ADC (R700, R701): it answers a next state only with D = 0, and then the sum's. -/
theorem adc_next {op : Byte} {o : Operand} {s t : State} (h : adc op o s = .next t) :
    s.flag .D = false ∧ t = (addToA (readOperand o s) s).advance o.mode := by
  rcases decimalGuard_cases op s ((addToA (readOperand o s) s).advance o.mode) with ⟨_, e⟩ | ⟨hd, e⟩
  · rw [adc, e] at h; cases h
  · rw [adc, e] at h; injection h with h; exact ⟨hd, h.symm⟩

/-- SBC (R700, R702): it answers a next state only with D = 0, and then the sum's with the complement. -/
theorem sbc_next {op : Byte} {o : Operand} {s t : State} (h : sbc op o s = .next t) :
    s.flag .D = false ∧ t = (addToA (sbcOperand (readOperand o s)) s).advance o.mode := by
  rcases decimalGuard_cases op s ((addToA (sbcOperand (readOperand o s)) s).advance o.mode) with ⟨_, e⟩ | ⟨hd, e⟩
  · rw [sbc, e] at h; cases h
  · rw [sbc, e] at h; injection h with h; exact ⟨hd, h.symm⟩

/-- A compare (R703 to R705). -/
theorem compareReg_next {r : Reg} {o : Operand} {s t : State} (h : compareReg r o s = .next t) :
    t.flag .C = compareCarry (s.reg r) (readOperand o s) ∧ NZFollow t (compareResult (s.reg r) (readOperand o s)) ∧
    t.pc = nextPC s.pc o.mode ∧ Keeps s t [] [.C, .Z, .N] [] := by
  injection h with h; subst h
  refine ⟨?_, nzFollow_of_putNZ (p := _) (by simp; rfl), by simp, fun q _ => by simp, ?_, fun a _ => by simp⟩
  · simp [State.flag, getFlag_putNZ]
  · intro k hk
    have h0 : k ≠ 0 := hk .C (by simp)
    have h1 : k ≠ 1 := hk .Z (by simp)
    have h7 : k ≠ 7 := hk .N (by simp)
    simp [getLsbD_putNZ, getLsbD_putFlag, Flag.bit, h0, h1, h7]

/-- A logic instruction (R800 to R802). -/
theorem logicA_next {f : Byte → Byte → Byte} {o : Operand} {s t : State} (h : logicA f o s = .next t) :
    t.a = f s.a (readOperand o s) ∧ NZFollow t (f s.a (readOperand o s)) ∧ t.pc = nextPC s.pc o.mode ∧
    Keeps s t [.A] [.Z, .N] [] := by
  injection h with h; subst h
  refine ⟨rfl, nzFollow_of_putNZ (p := s.p) (by simp), by simp, ?_, ?_, fun a _ => by simp⟩
  · intro q hq; simp [State.setReg_reg, List.mem_singleton.not.mp hq]
  · intro k hk
    have h1 : k ≠ 1 := hk .Z (by simp)
    have h7 : k ≠ 7 := hk .N (by simp)
    simp only [State.advance_p, State.setNZ_p, State.setReg_p, getLsbD_putNZ, h1, h7, if_false]

/-- BIT (R803). -/
theorem bitTest_next {o : Operand} {s t : State} (h : bitTest o s = .next t) :
    (t.flag .Z = true ↔ s.a &&& readOperand o s = 0x00) ∧ t.flag .N = (readOperand o s).getLsbD 7 ∧
    t.flag .V = (readOperand o s).getLsbD 6 ∧ t.pc = nextPC s.pc o.mode ∧ Keeps s t [] [.N, .V, .Z] [] := by
  injection h with h; subst h
  refine ⟨?_, ?_, ?_, by simp, ?_, ?_, fun a _ => by simp⟩
  · simp only [State.flag, getFlag, State.advance_p, getLsbD_putBitTest, Flag.bit]; simp
  · simp only [State.flag, getFlag, State.advance_p, getLsbD_putBitTest, Flag.bit]; simp
  · simp only [State.flag, getFlag, State.advance_p, getLsbD_putBitTest, Flag.bit]; simp
  · intro q _; cases q <;> rfl
  · intro k hk
    have h1 : k ≠ 1 := hk .Z (by simp)
    have h6 : k ≠ 6 := hk .V (by simp)
    have h7 : k ≠ 7 := hk .N (by simp)
    simp only [State.advance_p, getLsbD_putBitTest, h1, h6, h7, if_false]

/-- A shift or rotate (R900 to R903), on A or on the byte at the effective address. -/
theorem shiftTarget_next {f : Byte → Bool → Byte} {out : Byte → Bool} {tgt : Target} {s t : State}
    (h : shiftTarget f out tgt s = .next t) :
    targetValue tgt s t = f (readOperand tgt.operand s) (s.flag .C) ∧ t.flag .C = out (readOperand tgt.operand s) ∧
    NZFollow t (f (readOperand tgt.operand s) (s.flag .C)) ∧ t.pc = nextPC s.pc tgt.mode ∧
    Keeps s t tgt.regs [.C, .Z, .N] (tgt.addrs s) := by
  injection h with h; subst h
  have hp : ∀ k, (∀ f ∈ [Flag.C, .Z, .N], k ≠ f.bit) →
      (((writeTarget tgt (f (readOperand tgt.operand s) (s.flag .C)) s).setFlag .C
        (out (readOperand tgt.operand s))).setNZ (f (readOperand tgt.operand s) (s.flag .C))).p.getLsbD k = s.p.getLsbD k := by
    intro k hk
    have h0 : k ≠ 0 := hk .C (by simp)
    have h1 : k ≠ 1 := hk .Z (by simp)
    have h7 : k ≠ 7 := hk .N (by simp)
    simp [getLsbD_putNZ, getLsbD_putFlag, Flag.bit, h0, h1, h7]
  refine ⟨?_, ?_, nzFollow_of_putNZ (p := _) (by simp; rfl), by simp, ?_⟩
  · cases tgt <;> simp [targetValue, writeTarget_accumulator, writeTarget_memory]
  · simp [State.flag, getFlag_putNZ]
  · cases tgt with
    | accumulator =>
      refine ⟨fun q hq => ?_, hp, fun a _ => rfl⟩
      simp only [State.advance_reg, State.setNZ_reg, State.setFlag_reg]
      cases q <;> first | rfl | exact absurd (by simp [Target.regs]) hq
    | memory m =>
      refine ⟨fun q _ => by simp [writeTarget_memory], hp, fun a ha => ?_⟩
      simp [writeTarget_memory, Memory.read_write_other _ _ (List.mem_singleton.not.mp ha)]

/-- INC and DEC (R1000, R1001). -/
theorem stepMem_next {f : Byte → Byte} {m : MemMode} {s t : State} (h : stepMem f m s = .next t) :
    t.mem.read (ea m s) = f (s.mem.read (ea m s)) ∧ NZFollow t (f (s.mem.read (ea m s))) ∧
    t.pc = nextPC s.pc m.mode ∧ Keeps s t [] [.Z, .N] [ea m s] := by
  injection h with h; subst h
  refine ⟨by simp [writeTarget_memory, readOperand, State.readByte],
    nzFollow_of_putNZ (p := s.p) (by simp [readOperand, State.readByte]), by simp, fun q _ => by simp [writeTarget_memory], ?_, ?_⟩
  · intro k hk
    have h1 : k ≠ 1 := hk .Z (by simp)
    have h7 : k ≠ 7 := hk .N (by simp)
    simp only [State.advance_p, State.setNZ_p, writeTarget_p, getLsbD_putNZ, h1, h7, if_false]
  · intro a ha
    simp [writeTarget_memory, Memory.read_write_other _ _ (List.mem_singleton.not.mp ha)]

/-- INX, INY, DEX, DEY (R1002 to R1005). -/
theorem stepReg_next {f : Byte → Byte} {r : Reg} {s t : State} (h : stepReg f r s = .next t) :
    t.reg r = f (s.reg r) ∧ NZFollow t (f (s.reg r)) ∧ t.pc = nextPC s.pc .implicit ∧ Keeps s t [r] [.Z, .N] [] := by
  injection h with h; subst h
  refine ⟨by simp, nzFollow_of_putNZ (p := s.p) (by simp), by simp, ?_, ?_, fun a _ => by simp⟩
  · intro q hq; simp [State.setReg_reg, List.mem_singleton.not.mp hq]
  · intro k hk
    have h1 : k ≠ 1 := hk .Z (by simp)
    have h7 : k ≠ 7 := hk .N (by simp)
    simp only [State.advance_p, State.setNZ_p, State.setReg_p, getLsbD_putNZ, h1, h7, if_false]

/-- A conditional branch (R1101 to R1108) changes PC alone. -/
theorem branchIf_next {f : Flag} {w : Bool} {off : Byte} {s t : State} (h : branchIf f w off s = .next t) :
    t = s.setPC (if s.flag f == w then eaRelative off s else nextPC s.pc .relative) := by
  injection h with h; exact h.symm

/-- A flag instruction (R1302 to R1308). -/
theorem writeFlag_next {f : Flag} {v : Bool} {s t : State} (h : writeFlag f v s = .next t) :
    t.flag f = v ∧ t.pc = nextPC s.pc .implicit ∧ Keeps s t [] [f] [] := by
  injection h with h; subst h
  refine ⟨by simp [State.flag], by simp, fun q _ => by simp, ?_, fun a _ => by simp⟩
  intro k hk
  simp [getLsbD_putFlag, hk f (by simp)]

/-- A push (R214): one byte of page 1 stored, SP one less, nothing else. -/
theorem push_effect (s : State) (v : Byte) :
    (s.push v).sp = s.sp - 1 ∧ (s.push v).mem.read (stackAddr s.sp) = v ∧ (s.push v).pc = s.pc ∧
    Keeps s (s.push v) [.SP] [] [stackAddr s.sp] := by
  refine ⟨rfl, by simp, rfl, fun q hq => ?_, fun k _ => by simp, fun a ha => ?_⟩
  · simp [State.push_reg, List.mem_singleton.not.mp hq]
  · simp [Memory.read_write_other _ _ (List.mem_singleton.not.mp ha)]

/-- A pull (R215): the byte at the incremented SP, SP one more, nothing else. -/
theorem pull_effect (s : State) :
    s.pulled = s.mem.read (stackAddr (s.sp + 1)) ∧ s.pull.sp = s.sp + 1 ∧ s.pull.pc = s.pc ∧ Keeps s s.pull [.SP] [] [] := by
  refine ⟨rfl, rfl, rfl, fun q hq => ?_, fun k _ => rfl, fun a _ => rfl⟩
  simp [State.pull_reg, List.mem_singleton.not.mp hq]

/-- Two pushed bytes land at different addresses, since SP wraps only after 256 (R216). -/
theorem stackAddr_sub_ne (p : Byte) : stackAddr (p - 1) ≠ stackAddr p ∧ stackAddr (p - 1 - 1) ≠ stackAddr p ∧
    stackAddr (p - 1 - 1) ≠ stackAddr (p - 1) := by
  simp only [ne_eq, stackAddr_inj]
  refine ⟨?_, ?_, ?_⟩ <;> bv_omega

/-- Pushing a word (R218): the high byte at SP, the low byte below it, SP two less, nothing else. -/
theorem pushWord_effect (s : State) (w : Addr) :
    (s.pushWord w).sp = s.sp - 1 - 1 ∧ (s.pushWord w).mem.read (stackAddr s.sp) = hi8 w ∧
    (s.pushWord w).mem.read (stackAddr (s.sp - 1)) = lo8 w ∧ (s.pushWord w).pc = s.pc ∧
    Keeps s (s.pushWord w) [.SP] [] [stackAddr s.sp, stackAddr (s.sp - 1)] := by
  refine ⟨rfl, ?_, by simp [State.pushWord], rfl, fun q hq => ?_, fun k _ => by simp [State.pushWord], fun a ha => ?_⟩
  · simp only [State.pushWord, State.push_mem, State.push_sp, Memory.read_write_other _ _ (stackAddr_sub_ne s.sp).1.symm,
      Memory.read_write_same]
  · simp [State.pushWord, State.push_reg, List.mem_singleton.not.mp hq]
  · simp only [List.mem_cons, List.not_mem_nil, or_false, not_or] at ha
    simp only [State.pushWord, State.push_mem, State.push_sp, Memory.read_write_other _ _ ha.1,
      Memory.read_write_other _ _ ha.2]

/-- An address outside page 1 is no stack address. -/
theorem ne_stackAddr {a : Addr} (h : a.toNat < 256 ∨ 512 ≤ a.toNat) (p : Byte) : a ≠ stackAddr p := by
  intro e
  have := congrArg BitVec.toNat e
  rw [stackAddr_toNat] at this
  have := p.isLt
  omega

/-- Taking the BRK entry (R1300, R1410): three bytes pushed, I set, PC from the vector, nothing else. -/
theorem enterBreak_effect (s : State) (ret : Addr) :
    (s.enterBreak ret).sp = s.sp - 1 - 1 - 1 ∧ (s.enterBreak ret).mem.read (stackAddr s.sp) = hi8 ret ∧
    (s.enterBreak ret).mem.read (stackAddr (s.sp - 1)) = lo8 ret ∧
    (s.enterBreak ret).mem.read (stackAddr (s.sp - 1 - 1)) = breakStatus s.p ∧ (s.enterBreak ret).flag .I = true ∧
    (s.enterBreak ret).pc = s.mem.readWord breakVector ∧
    Keeps s (s.enterBreak ret) [.SP] [.I] [stackAddr s.sp, stackAddr (s.sp - 1), stackAddr (s.sp - 1 - 1)] := by
  obtain ⟨h1, h2, h3⟩ := stackAddr_sub_ne s.sp
  have hv : ∀ p, breakVector ≠ stackAddr p := ne_stackAddr (by decide)
  have hw : ∀ p, breakVector + 1 ≠ stackAddr p := ne_stackAddr (by decide)
  have hm : (s.enterBreak ret).mem = ((s.mem.write (stackAddr s.sp) (hi8 ret)).write (stackAddr (s.sp - 1)) (lo8 ret)).write
      (stackAddr (s.sp - 1 - 1)) (breakStatus s.p) := rfl
  refine ⟨rfl, ?_, ?_, by simp only [hm, Memory.read_write_same], by simp [State.enterBreak, State.flag], ?_,
    fun q hq => ?_, fun k hk => ?_, fun a ha => ?_⟩
  · simp only [hm, Memory.read_write_other _ _ h1.symm, Memory.read_write_other _ _ h2.symm, Memory.read_write_same]
  · simp only [hm, Memory.read_write_other _ _ h3.symm, Memory.read_write_same]
  · show Memory.readWord _ _ = _
    simp only [Memory.readWord, State.setFlag_mem, State.push_mem, State.pushWord, Memory.read_write_other _ _ (hv _),
      Memory.read_write_other _ _ (hw _)]
  · simp [State.enterBreak, State.pushWord, State.push_reg, List.mem_singleton.not.mp hq]
  · simp [State.enterBreak, State.pushWord, getLsbD_putFlag, hk .I (by simp)]
  · simp only [List.mem_cons, List.not_mem_nil, or_false, not_or] at ha
    simp only [hm, Memory.read_write_other _ _ ha.1, Memory.read_write_other _ _ ha.2.1,
      Memory.read_write_other _ _ ha.2.2]

/-- Returning from BRK (R1301, R1411): three pulls into P and PC, memory unchanged. -/
theorem returnFromBreak_effect (s : State) :
    s.returnFromBreak.sp = s.sp + 1 + 1 + 1 ∧
    s.returnFromBreak.p = s.mem.read (stackAddr (s.sp + 1)) ||| unusedBit ∧
    s.returnFromBreak.pc =
      join (s.mem.read (stackAddr (s.sp + 1 + 1 + 1))) (s.mem.read (stackAddr (s.sp + 1 + 1))) ∧
    s.returnFromBreak.mem = s.mem ∧ ∀ r, r ≠ .SP → s.returnFromBreak.reg r = s.reg r := by
  refine ⟨rfl, rfl, rfl, rfl, fun r h => ?_⟩
  cases r <;> first | rfl | exact absurd rfl h

/-- Frames compose. -/
theorem Keeps.trans {s t u : State} {r1 r2 : List Reg} {f1 f2 : List Flag} {a1 a2 : List Addr}
    (h1 : Keeps s t r1 f1 a1) (h2 : Keeps t u r2 f2 a2) : Keeps s u (r1 ++ r2) (f1 ++ f2) (a1 ++ a2) := by
  obtain ⟨hr1, hf1, ha1⟩ := h1
  obtain ⟨hr2, hf2, ha2⟩ := h2
  refine ⟨fun r h => ?_, fun k h => ?_, fun a h => ?_⟩
  · rw [List.mem_append, not_or] at h; rw [hr2 r h.2, hr1 r h.1]
  · rw [hf2 k fun f hf => h f (List.mem_append_right _ hf), hf1 k fun f hf => h f (List.mem_append_left _ hf)]
  · rw [List.mem_append, not_or] at h; rw [ha2 a h.2, ha1 a h.1]

/-- A frame may be widened. -/
theorem Keeps.mono {s t : State} {r1 r2 : List Reg} {f1 f2 : List Flag} {a1 a2 : List Addr} (h : Keeps s t r1 f1 a1)
    (hr : r1 ⊆ r2) (hf : f1 ⊆ f2) (ha : a1 ⊆ a2) : Keeps s t r2 f2 a2 :=
  ⟨fun r h' => h.1 r fun hm => h' (hr hm), fun k h' => h.2.1 k fun f hm => h' f (hf hm), fun a h' => h.2.2 a fun hm => h' (ha hm)⟩

/-- The generic advance changes PC alone. -/
theorem Keeps.advance {s t : State} {rs : List Reg} {fs : List Flag} {as : List Addr} (h : Keeps s t rs fs as) (m : Mode) :
    Keeps s (t.advance m) rs fs as :=
  ⟨fun r hr => (State.advance_reg t m r).trans (h.1 r hr), h.2.1, h.2.2⟩

/-- Setting PC keeps everything else. -/
theorem keeps_setPC (s : State) (a : Addr) : Keeps s (s.setPC a) [] [] [] :=
  ⟨fun r _ => State.setPC_reg s a r, fun _ _ => rfl, fun _ _ => rfl⟩

end Sys2Proof.Machine
end

