-- ==== Sys2Proof/Laws/Invariant.lean ====
section
/-! SUPPORT. Every named operation keeps the invariant (spec/10_state.md R107 and the canonical memory). -/

namespace Sys2Proof.Machine

/-- A write of the whole of P sets bit 5 (R107). -/
theorem getLsbD_or_unusedBit (v : Byte) : (v ||| unusedBit).getLsbD 5 = true := by
  rw [BitVec.getLsbD_or, getLsbD_unusedBit]; simp

theorem getLsbD_five_putFlag (p : Byte) (f : Flag) (v : Bool) : (putFlag p f v).getLsbD 5 = p.getLsbD 5 := by
  rw [getLsbD_putFlag, if_neg f.bit_ne_five.symm]

theorem getLsbD_five_putNZ (p v : Byte) : (putNZ p v).getLsbD 5 = p.getLsbD 5 := by
  rw [getLsbD_putNZ]; simp

theorem inv_setReg {s : State} (r : Reg) (v : Byte) (h : s.Inv) : (s.setReg r v).Inv := by
  cases r <;> exact h

theorem inv_setFlag {s : State} (f : Flag) (v : Bool) (h : s.Inv) : (s.setFlag f v).Inv :=
  ⟨h.1, (getLsbD_five_putFlag s.p f v).trans h.2⟩

theorem inv_setNZ {s : State} (v : Byte) (h : s.Inv) : (s.setNZ v).Inv := ⟨h.1, (getLsbD_five_putNZ s.p v).trans h.2⟩

theorem inv_setP {s : State} (v : Byte) (h : s.Inv) : (s.setP v).Inv := ⟨h.1, getLsbD_or_unusedBit v⟩

theorem inv_setPC {s : State} (a : Addr) (h : s.Inv) : (s.setPC a).Inv := h

theorem inv_advance {s : State} (m : Mode) (h : s.Inv) : (s.advance m).Inv := h

theorem inv_writeByte {s : State} (a : Addr) (v : Byte) (h : s.Inv) : (s.writeByte a v).Inv :=
  ⟨Memory.wf_write a v h.1, h.2⟩

theorem inv_push {s : State} (v : Byte) (h : s.Inv) : (s.push v).Inv := ⟨Memory.wf_write _ v h.1, h.2⟩

theorem inv_pushWord {s : State} (w : Addr) (h : s.Inv) : (s.pushWord w).Inv := inv_push _ (inv_push _ h)

theorem inv_pull {s : State} (h : s.Inv) : s.pull.Inv := h

theorem inv_writeTarget {s : State} (t : Target) (v : Byte) (h : s.Inv) : (writeTarget t v s).Inv := by
  cases t with
  | accumulator => exact inv_setReg .A v h
  | memory m => exact inv_writeByte _ v h

theorem inv_addToA {s : State} (m : Byte) (h : s.Inv) : (addToA m s).Inv :=
  inv_setNZ _ (inv_setReg _ _ (inv_setFlag _ _ (inv_setFlag _ _ h)))

theorem inv_putBitTest {s : State} (a m : Byte) (h : s.Inv) : ({ s with p := putBitTest s.p a m } : State).Inv :=
  ⟨h.1, by rw [show (State.p _) = putBitTest s.p a m from rfl, getLsbD_putBitTest]; simpa using h.2⟩

theorem inv_enterBreak {s : State} (ret : Addr) (h : s.Inv) : (s.enterBreak ret).Inv :=
  inv_setPC _ (inv_setFlag _ _ (inv_push _ (inv_pushWord _ h)))

theorem inv_returnFromBreak {s : State} (h : s.Inv) : s.returnFromBreak.Inv := inv_setP (s := s.pull) s.pulled h

theorem inv_construct (a x y sp : Byte) (pc : Addr) (p : Byte) : (construct a x y sp pc p).Inv :=
  ⟨Memory.wf_reset, getLsbD_or_unusedBit p⟩

/-- `Reset` writes P = 0x24 and no memory (R1502). -/
theorem inv_resetBlock {s : State} (h : s.Inv) : (resetBlock s).Inv :=
  ⟨h.1, show (0x24 : Byte).getLsbD 5 = true by decide⟩

end Sys2Proof.Machine
end

