-- ==== Sys2Proof/Laws/PerInstr.lean ====
section
/-! SUPPORT. Statements about every instruction as syntax, one lemma for each constructor. -/

namespace Sys2Proof.Laws.WellFormed

/-- Every instruction is well-formed: its pair is in the table and its operand fits its mode (spec/30_encoding.md R301, R306). -/
def Statement (i : Instr) : Prop := i.wf = true

theorem ldaImm (v : Byte) : Statement (.ldaImm v) := rfl
theorem ldaZp (b : Byte) : Statement (.ldaZp b) := rfl
theorem ldaZpX (b : Byte) : Statement (.ldaZpX b) := rfl
theorem ldaAbs (w : Addr) : Statement (.ldaAbs w) := rfl
theorem ldaAbsX (w : Addr) : Statement (.ldaAbsX w) := rfl
theorem ldaAbsY (w : Addr) : Statement (.ldaAbsY w) := rfl
theorem ldaIndX (b : Byte) : Statement (.ldaIndX b) := rfl
theorem ldaIndY (b : Byte) : Statement (.ldaIndY b) := rfl
theorem ldxImm (v : Byte) : Statement (.ldxImm v) := rfl
theorem ldxZp (b : Byte) : Statement (.ldxZp b) := rfl
theorem ldxZpY (b : Byte) : Statement (.ldxZpY b) := rfl
theorem ldxAbs (w : Addr) : Statement (.ldxAbs w) := rfl
theorem ldxAbsY (w : Addr) : Statement (.ldxAbsY w) := rfl
theorem ldyImm (v : Byte) : Statement (.ldyImm v) := rfl
theorem ldyZp (b : Byte) : Statement (.ldyZp b) := rfl
theorem ldyZpX (b : Byte) : Statement (.ldyZpX b) := rfl
theorem ldyAbs (w : Addr) : Statement (.ldyAbs w) := rfl
theorem ldyAbsX (w : Addr) : Statement (.ldyAbsX w) := rfl
theorem staZp (b : Byte) : Statement (.staZp b) := rfl
theorem staZpX (b : Byte) : Statement (.staZpX b) := rfl
theorem staAbs (w : Addr) : Statement (.staAbs w) := rfl
theorem staAbsX (w : Addr) : Statement (.staAbsX w) := rfl
theorem staAbsY (w : Addr) : Statement (.staAbsY w) := rfl
theorem staIndX (b : Byte) : Statement (.staIndX b) := rfl
theorem staIndY (b : Byte) : Statement (.staIndY b) := rfl
theorem stxZp (b : Byte) : Statement (.stxZp b) := rfl
theorem stxZpY (b : Byte) : Statement (.stxZpY b) := rfl
theorem stxAbs (w : Addr) : Statement (.stxAbs w) := rfl
theorem styZp (b : Byte) : Statement (.styZp b) := rfl
theorem styZpX (b : Byte) : Statement (.styZpX b) := rfl
theorem styAbs (w : Addr) : Statement (.styAbs w) := rfl
theorem tax : Statement .tax := rfl
theorem tay : Statement .tay := rfl
theorem txa : Statement .txa := rfl
theorem tya : Statement .tya := rfl
theorem tsx : Statement .tsx := rfl
theorem txs : Statement .txs := rfl
theorem adcImm (v : Byte) : Statement (.adcImm v) := rfl
theorem adcZp (b : Byte) : Statement (.adcZp b) := rfl
theorem adcZpX (b : Byte) : Statement (.adcZpX b) := rfl
theorem adcAbs (w : Addr) : Statement (.adcAbs w) := rfl
theorem adcAbsX (w : Addr) : Statement (.adcAbsX w) := rfl
theorem adcAbsY (w : Addr) : Statement (.adcAbsY w) := rfl
theorem adcIndX (b : Byte) : Statement (.adcIndX b) := rfl
theorem adcIndY (b : Byte) : Statement (.adcIndY b) := rfl
theorem sbcImm (v : Byte) : Statement (.sbcImm v) := rfl
theorem sbcZp (b : Byte) : Statement (.sbcZp b) := rfl
theorem sbcZpX (b : Byte) : Statement (.sbcZpX b) := rfl
theorem sbcAbs (w : Addr) : Statement (.sbcAbs w) := rfl
theorem sbcAbsX (w : Addr) : Statement (.sbcAbsX w) := rfl
theorem sbcAbsY (w : Addr) : Statement (.sbcAbsY w) := rfl
theorem sbcIndX (b : Byte) : Statement (.sbcIndX b) := rfl
theorem sbcIndY (b : Byte) : Statement (.sbcIndY b) := rfl
theorem cmpImm (v : Byte) : Statement (.cmpImm v) := rfl
theorem cmpZp (b : Byte) : Statement (.cmpZp b) := rfl
theorem cmpZpX (b : Byte) : Statement (.cmpZpX b) := rfl
theorem cmpAbs (w : Addr) : Statement (.cmpAbs w) := rfl
theorem cmpAbsX (w : Addr) : Statement (.cmpAbsX w) := rfl
theorem cmpAbsY (w : Addr) : Statement (.cmpAbsY w) := rfl
theorem cmpIndX (b : Byte) : Statement (.cmpIndX b) := rfl
theorem cmpIndY (b : Byte) : Statement (.cmpIndY b) := rfl
theorem cpxImm (v : Byte) : Statement (.cpxImm v) := rfl
theorem cpxZp (b : Byte) : Statement (.cpxZp b) := rfl
theorem cpxAbs (w : Addr) : Statement (.cpxAbs w) := rfl
theorem cpyImm (v : Byte) : Statement (.cpyImm v) := rfl
theorem cpyZp (b : Byte) : Statement (.cpyZp b) := rfl
theorem cpyAbs (w : Addr) : Statement (.cpyAbs w) := rfl
theorem andImm (v : Byte) : Statement (.andImm v) := rfl
theorem andZp (b : Byte) : Statement (.andZp b) := rfl
theorem andZpX (b : Byte) : Statement (.andZpX b) := rfl
theorem andAbs (w : Addr) : Statement (.andAbs w) := rfl
theorem andAbsX (w : Addr) : Statement (.andAbsX w) := rfl
theorem andAbsY (w : Addr) : Statement (.andAbsY w) := rfl
theorem andIndX (b : Byte) : Statement (.andIndX b) := rfl
theorem andIndY (b : Byte) : Statement (.andIndY b) := rfl
theorem oraImm (v : Byte) : Statement (.oraImm v) := rfl
theorem oraZp (b : Byte) : Statement (.oraZp b) := rfl
theorem oraZpX (b : Byte) : Statement (.oraZpX b) := rfl
theorem oraAbs (w : Addr) : Statement (.oraAbs w) := rfl
theorem oraAbsX (w : Addr) : Statement (.oraAbsX w) := rfl
theorem oraAbsY (w : Addr) : Statement (.oraAbsY w) := rfl
theorem oraIndX (b : Byte) : Statement (.oraIndX b) := rfl
theorem oraIndY (b : Byte) : Statement (.oraIndY b) := rfl
theorem eorImm (v : Byte) : Statement (.eorImm v) := rfl
theorem eorZp (b : Byte) : Statement (.eorZp b) := rfl
theorem eorZpX (b : Byte) : Statement (.eorZpX b) := rfl
theorem eorAbs (w : Addr) : Statement (.eorAbs w) := rfl
theorem eorAbsX (w : Addr) : Statement (.eorAbsX w) := rfl
theorem eorAbsY (w : Addr) : Statement (.eorAbsY w) := rfl
theorem eorIndX (b : Byte) : Statement (.eorIndX b) := rfl
theorem eorIndY (b : Byte) : Statement (.eorIndY b) := rfl
theorem bitZp (b : Byte) : Statement (.bitZp b) := rfl
theorem bitAbs (w : Addr) : Statement (.bitAbs w) := rfl
theorem aslAcc : Statement .aslAcc := rfl
theorem aslZp (b : Byte) : Statement (.aslZp b) := rfl
theorem aslZpX (b : Byte) : Statement (.aslZpX b) := rfl
theorem aslAbs (w : Addr) : Statement (.aslAbs w) := rfl
theorem aslAbsX (w : Addr) : Statement (.aslAbsX w) := rfl
theorem lsrAcc : Statement .lsrAcc := rfl
theorem lsrZp (b : Byte) : Statement (.lsrZp b) := rfl
theorem lsrZpX (b : Byte) : Statement (.lsrZpX b) := rfl
theorem lsrAbs (w : Addr) : Statement (.lsrAbs w) := rfl
theorem lsrAbsX (w : Addr) : Statement (.lsrAbsX w) := rfl
theorem rolAcc : Statement .rolAcc := rfl
theorem rolZp (b : Byte) : Statement (.rolZp b) := rfl
theorem rolZpX (b : Byte) : Statement (.rolZpX b) := rfl
theorem rolAbs (w : Addr) : Statement (.rolAbs w) := rfl
theorem rolAbsX (w : Addr) : Statement (.rolAbsX w) := rfl
theorem rorAcc : Statement .rorAcc := rfl
theorem rorZp (b : Byte) : Statement (.rorZp b) := rfl
theorem rorZpX (b : Byte) : Statement (.rorZpX b) := rfl
theorem rorAbs (w : Addr) : Statement (.rorAbs w) := rfl
theorem rorAbsX (w : Addr) : Statement (.rorAbsX w) := rfl
theorem incZp (b : Byte) : Statement (.incZp b) := rfl
theorem incZpX (b : Byte) : Statement (.incZpX b) := rfl
theorem incAbs (w : Addr) : Statement (.incAbs w) := rfl
theorem incAbsX (w : Addr) : Statement (.incAbsX w) := rfl
theorem decZp (b : Byte) : Statement (.decZp b) := rfl
theorem decZpX (b : Byte) : Statement (.decZpX b) := rfl
theorem decAbs (w : Addr) : Statement (.decAbs w) := rfl
theorem decAbsX (w : Addr) : Statement (.decAbsX w) := rfl
theorem inx : Statement .inx := rfl
theorem iny : Statement .iny := rfl
theorem dex : Statement .dex := rfl
theorem dey : Statement .dey := rfl
theorem bpl (off : Byte) : Statement (.bpl off) := rfl
theorem bmi (off : Byte) : Statement (.bmi off) := rfl
theorem bvc (off : Byte) : Statement (.bvc off) := rfl
theorem bvs (off : Byte) : Statement (.bvs off) := rfl
theorem bcc (off : Byte) : Statement (.bcc off) := rfl
theorem bcs (off : Byte) : Statement (.bcs off) := rfl
theorem bne (off : Byte) : Statement (.bne off) := rfl
theorem beq (off : Byte) : Statement (.beq off) := rfl
theorem jmpAbs (w : Addr) : Statement (.jmpAbs w) := rfl
theorem jmpInd (w : Addr) : Statement (.jmpInd w) := rfl
theorem jsrAbs (w : Addr) : Statement (.jsrAbs w) := rfl
theorem rts : Statement .rts := rfl
theorem pha : Statement .pha := rfl
theorem php : Statement .php := rfl
theorem pla : Statement .pla := rfl
theorem plp : Statement .plp := rfl
theorem brk : Statement .brk := rfl
theorem rti : Statement .rti := rfl
theorem clc : Statement .clc := rfl
theorem sec : Statement .sec := rfl
theorem cli : Statement .cli := rfl
theorem sei : Statement .sei := rfl
theorem cld : Statement .cld := rfl
theorem sed : Statement .sed := rfl
theorem clv : Statement .clv := rfl
theorem nop : Statement .nop := rfl

end Sys2Proof.Laws.WellFormed

namespace Sys2Proof.Laws.EncodedLength

/-- An instruction is as long as its mode says (R301). -/
def Statement (i : Instr) : Prop := (encode i).length = i.mode.length

theorem ldaImm (v : Byte) : Statement (.ldaImm v) := rfl
theorem ldaZp (b : Byte) : Statement (.ldaZp b) := rfl
theorem ldaZpX (b : Byte) : Statement (.ldaZpX b) := rfl
theorem ldaAbs (w : Addr) : Statement (.ldaAbs w) := rfl
theorem ldaAbsX (w : Addr) : Statement (.ldaAbsX w) := rfl
theorem ldaAbsY (w : Addr) : Statement (.ldaAbsY w) := rfl
theorem ldaIndX (b : Byte) : Statement (.ldaIndX b) := rfl
theorem ldaIndY (b : Byte) : Statement (.ldaIndY b) := rfl
theorem ldxImm (v : Byte) : Statement (.ldxImm v) := rfl
theorem ldxZp (b : Byte) : Statement (.ldxZp b) := rfl
theorem ldxZpY (b : Byte) : Statement (.ldxZpY b) := rfl
theorem ldxAbs (w : Addr) : Statement (.ldxAbs w) := rfl
theorem ldxAbsY (w : Addr) : Statement (.ldxAbsY w) := rfl
theorem ldyImm (v : Byte) : Statement (.ldyImm v) := rfl
theorem ldyZp (b : Byte) : Statement (.ldyZp b) := rfl
theorem ldyZpX (b : Byte) : Statement (.ldyZpX b) := rfl
theorem ldyAbs (w : Addr) : Statement (.ldyAbs w) := rfl
theorem ldyAbsX (w : Addr) : Statement (.ldyAbsX w) := rfl
theorem staZp (b : Byte) : Statement (.staZp b) := rfl
theorem staZpX (b : Byte) : Statement (.staZpX b) := rfl
theorem staAbs (w : Addr) : Statement (.staAbs w) := rfl
theorem staAbsX (w : Addr) : Statement (.staAbsX w) := rfl
theorem staAbsY (w : Addr) : Statement (.staAbsY w) := rfl
theorem staIndX (b : Byte) : Statement (.staIndX b) := rfl
theorem staIndY (b : Byte) : Statement (.staIndY b) := rfl
theorem stxZp (b : Byte) : Statement (.stxZp b) := rfl
theorem stxZpY (b : Byte) : Statement (.stxZpY b) := rfl
theorem stxAbs (w : Addr) : Statement (.stxAbs w) := rfl
theorem styZp (b : Byte) : Statement (.styZp b) := rfl
theorem styZpX (b : Byte) : Statement (.styZpX b) := rfl
theorem styAbs (w : Addr) : Statement (.styAbs w) := rfl
theorem tax : Statement .tax := rfl
theorem tay : Statement .tay := rfl
theorem txa : Statement .txa := rfl
theorem tya : Statement .tya := rfl
theorem tsx : Statement .tsx := rfl
theorem txs : Statement .txs := rfl
theorem adcImm (v : Byte) : Statement (.adcImm v) := rfl
theorem adcZp (b : Byte) : Statement (.adcZp b) := rfl
theorem adcZpX (b : Byte) : Statement (.adcZpX b) := rfl
theorem adcAbs (w : Addr) : Statement (.adcAbs w) := rfl
theorem adcAbsX (w : Addr) : Statement (.adcAbsX w) := rfl
theorem adcAbsY (w : Addr) : Statement (.adcAbsY w) := rfl
theorem adcIndX (b : Byte) : Statement (.adcIndX b) := rfl
theorem adcIndY (b : Byte) : Statement (.adcIndY b) := rfl
theorem sbcImm (v : Byte) : Statement (.sbcImm v) := rfl
theorem sbcZp (b : Byte) : Statement (.sbcZp b) := rfl
theorem sbcZpX (b : Byte) : Statement (.sbcZpX b) := rfl
theorem sbcAbs (w : Addr) : Statement (.sbcAbs w) := rfl
theorem sbcAbsX (w : Addr) : Statement (.sbcAbsX w) := rfl
theorem sbcAbsY (w : Addr) : Statement (.sbcAbsY w) := rfl
theorem sbcIndX (b : Byte) : Statement (.sbcIndX b) := rfl
theorem sbcIndY (b : Byte) : Statement (.sbcIndY b) := rfl
theorem cmpImm (v : Byte) : Statement (.cmpImm v) := rfl
theorem cmpZp (b : Byte) : Statement (.cmpZp b) := rfl
theorem cmpZpX (b : Byte) : Statement (.cmpZpX b) := rfl
theorem cmpAbs (w : Addr) : Statement (.cmpAbs w) := rfl
theorem cmpAbsX (w : Addr) : Statement (.cmpAbsX w) := rfl
theorem cmpAbsY (w : Addr) : Statement (.cmpAbsY w) := rfl
theorem cmpIndX (b : Byte) : Statement (.cmpIndX b) := rfl
theorem cmpIndY (b : Byte) : Statement (.cmpIndY b) := rfl
theorem cpxImm (v : Byte) : Statement (.cpxImm v) := rfl
theorem cpxZp (b : Byte) : Statement (.cpxZp b) := rfl
theorem cpxAbs (w : Addr) : Statement (.cpxAbs w) := rfl
theorem cpyImm (v : Byte) : Statement (.cpyImm v) := rfl
theorem cpyZp (b : Byte) : Statement (.cpyZp b) := rfl
theorem cpyAbs (w : Addr) : Statement (.cpyAbs w) := rfl
theorem andImm (v : Byte) : Statement (.andImm v) := rfl
theorem andZp (b : Byte) : Statement (.andZp b) := rfl
theorem andZpX (b : Byte) : Statement (.andZpX b) := rfl
theorem andAbs (w : Addr) : Statement (.andAbs w) := rfl
theorem andAbsX (w : Addr) : Statement (.andAbsX w) := rfl
theorem andAbsY (w : Addr) : Statement (.andAbsY w) := rfl
theorem andIndX (b : Byte) : Statement (.andIndX b) := rfl
theorem andIndY (b : Byte) : Statement (.andIndY b) := rfl
theorem oraImm (v : Byte) : Statement (.oraImm v) := rfl
theorem oraZp (b : Byte) : Statement (.oraZp b) := rfl
theorem oraZpX (b : Byte) : Statement (.oraZpX b) := rfl
theorem oraAbs (w : Addr) : Statement (.oraAbs w) := rfl
theorem oraAbsX (w : Addr) : Statement (.oraAbsX w) := rfl
theorem oraAbsY (w : Addr) : Statement (.oraAbsY w) := rfl
theorem oraIndX (b : Byte) : Statement (.oraIndX b) := rfl
theorem oraIndY (b : Byte) : Statement (.oraIndY b) := rfl
theorem eorImm (v : Byte) : Statement (.eorImm v) := rfl
theorem eorZp (b : Byte) : Statement (.eorZp b) := rfl
theorem eorZpX (b : Byte) : Statement (.eorZpX b) := rfl
theorem eorAbs (w : Addr) : Statement (.eorAbs w) := rfl
theorem eorAbsX (w : Addr) : Statement (.eorAbsX w) := rfl
theorem eorAbsY (w : Addr) : Statement (.eorAbsY w) := rfl
theorem eorIndX (b : Byte) : Statement (.eorIndX b) := rfl
theorem eorIndY (b : Byte) : Statement (.eorIndY b) := rfl
theorem bitZp (b : Byte) : Statement (.bitZp b) := rfl
theorem bitAbs (w : Addr) : Statement (.bitAbs w) := rfl
theorem aslAcc : Statement .aslAcc := rfl
theorem aslZp (b : Byte) : Statement (.aslZp b) := rfl
theorem aslZpX (b : Byte) : Statement (.aslZpX b) := rfl
theorem aslAbs (w : Addr) : Statement (.aslAbs w) := rfl
theorem aslAbsX (w : Addr) : Statement (.aslAbsX w) := rfl
theorem lsrAcc : Statement .lsrAcc := rfl
theorem lsrZp (b : Byte) : Statement (.lsrZp b) := rfl
theorem lsrZpX (b : Byte) : Statement (.lsrZpX b) := rfl
theorem lsrAbs (w : Addr) : Statement (.lsrAbs w) := rfl
theorem lsrAbsX (w : Addr) : Statement (.lsrAbsX w) := rfl
theorem rolAcc : Statement .rolAcc := rfl
theorem rolZp (b : Byte) : Statement (.rolZp b) := rfl
theorem rolZpX (b : Byte) : Statement (.rolZpX b) := rfl
theorem rolAbs (w : Addr) : Statement (.rolAbs w) := rfl
theorem rolAbsX (w : Addr) : Statement (.rolAbsX w) := rfl
theorem rorAcc : Statement .rorAcc := rfl
theorem rorZp (b : Byte) : Statement (.rorZp b) := rfl
theorem rorZpX (b : Byte) : Statement (.rorZpX b) := rfl
theorem rorAbs (w : Addr) : Statement (.rorAbs w) := rfl
theorem rorAbsX (w : Addr) : Statement (.rorAbsX w) := rfl
theorem incZp (b : Byte) : Statement (.incZp b) := rfl
theorem incZpX (b : Byte) : Statement (.incZpX b) := rfl
theorem incAbs (w : Addr) : Statement (.incAbs w) := rfl
theorem incAbsX (w : Addr) : Statement (.incAbsX w) := rfl
theorem decZp (b : Byte) : Statement (.decZp b) := rfl
theorem decZpX (b : Byte) : Statement (.decZpX b) := rfl
theorem decAbs (w : Addr) : Statement (.decAbs w) := rfl
theorem decAbsX (w : Addr) : Statement (.decAbsX w) := rfl
theorem inx : Statement .inx := rfl
theorem iny : Statement .iny := rfl
theorem dex : Statement .dex := rfl
theorem dey : Statement .dey := rfl
theorem bpl (off : Byte) : Statement (.bpl off) := rfl
theorem bmi (off : Byte) : Statement (.bmi off) := rfl
theorem bvc (off : Byte) : Statement (.bvc off) := rfl
theorem bvs (off : Byte) : Statement (.bvs off) := rfl
theorem bcc (off : Byte) : Statement (.bcc off) := rfl
theorem bcs (off : Byte) : Statement (.bcs off) := rfl
theorem bne (off : Byte) : Statement (.bne off) := rfl
theorem beq (off : Byte) : Statement (.beq off) := rfl
theorem jmpAbs (w : Addr) : Statement (.jmpAbs w) := rfl
theorem jmpInd (w : Addr) : Statement (.jmpInd w) := rfl
theorem jsrAbs (w : Addr) : Statement (.jsrAbs w) := rfl
theorem rts : Statement .rts := rfl
theorem pha : Statement .pha := rfl
theorem php : Statement .php := rfl
theorem pla : Statement .pla := rfl
theorem plp : Statement .plp := rfl
theorem brk : Statement .brk := rfl
theorem rti : Statement .rti := rfl
theorem clc : Statement .clc := rfl
theorem sec : Statement .sec := rfl
theorem cli : Statement .cli := rfl
theorem sei : Statement .sei := rfl
theorem cld : Statement .cld := rfl
theorem sed : Statement .sed := rfl
theorem clv : Statement .clv := rfl
theorem nop : Statement .nop := rfl

end Sys2Proof.Laws.EncodedLength

namespace Sys2Proof.Laws.TableRow

/-- The opcode of an instruction is the one the table gives its mnemonic and mode (R306, R310). -/
def Statement (i : Instr) : Prop := opcodeOf i.mnemonic i.mode = some i.opcode

theorem ldaImm (v : Byte) : Statement (.ldaImm v) := rfl
theorem ldaZp (b : Byte) : Statement (.ldaZp b) := rfl
theorem ldaZpX (b : Byte) : Statement (.ldaZpX b) := rfl
theorem ldaAbs (w : Addr) : Statement (.ldaAbs w) := rfl
theorem ldaAbsX (w : Addr) : Statement (.ldaAbsX w) := rfl
theorem ldaAbsY (w : Addr) : Statement (.ldaAbsY w) := rfl
theorem ldaIndX (b : Byte) : Statement (.ldaIndX b) := rfl
theorem ldaIndY (b : Byte) : Statement (.ldaIndY b) := rfl
theorem ldxImm (v : Byte) : Statement (.ldxImm v) := rfl
theorem ldxZp (b : Byte) : Statement (.ldxZp b) := rfl
theorem ldxZpY (b : Byte) : Statement (.ldxZpY b) := rfl
theorem ldxAbs (w : Addr) : Statement (.ldxAbs w) := rfl
theorem ldxAbsY (w : Addr) : Statement (.ldxAbsY w) := rfl
theorem ldyImm (v : Byte) : Statement (.ldyImm v) := rfl
theorem ldyZp (b : Byte) : Statement (.ldyZp b) := rfl
theorem ldyZpX (b : Byte) : Statement (.ldyZpX b) := rfl
theorem ldyAbs (w : Addr) : Statement (.ldyAbs w) := rfl
theorem ldyAbsX (w : Addr) : Statement (.ldyAbsX w) := rfl
theorem staZp (b : Byte) : Statement (.staZp b) := rfl
theorem staZpX (b : Byte) : Statement (.staZpX b) := rfl
theorem staAbs (w : Addr) : Statement (.staAbs w) := rfl
theorem staAbsX (w : Addr) : Statement (.staAbsX w) := rfl
theorem staAbsY (w : Addr) : Statement (.staAbsY w) := rfl
theorem staIndX (b : Byte) : Statement (.staIndX b) := rfl
theorem staIndY (b : Byte) : Statement (.staIndY b) := rfl
theorem stxZp (b : Byte) : Statement (.stxZp b) := rfl
theorem stxZpY (b : Byte) : Statement (.stxZpY b) := rfl
theorem stxAbs (w : Addr) : Statement (.stxAbs w) := rfl
theorem styZp (b : Byte) : Statement (.styZp b) := rfl
theorem styZpX (b : Byte) : Statement (.styZpX b) := rfl
theorem styAbs (w : Addr) : Statement (.styAbs w) := rfl
theorem tax : Statement .tax := rfl
theorem tay : Statement .tay := rfl
theorem txa : Statement .txa := rfl
theorem tya : Statement .tya := rfl
theorem tsx : Statement .tsx := rfl
theorem txs : Statement .txs := rfl
theorem adcImm (v : Byte) : Statement (.adcImm v) := rfl
theorem adcZp (b : Byte) : Statement (.adcZp b) := rfl
theorem adcZpX (b : Byte) : Statement (.adcZpX b) := rfl
theorem adcAbs (w : Addr) : Statement (.adcAbs w) := rfl
theorem adcAbsX (w : Addr) : Statement (.adcAbsX w) := rfl
theorem adcAbsY (w : Addr) : Statement (.adcAbsY w) := rfl
theorem adcIndX (b : Byte) : Statement (.adcIndX b) := rfl
theorem adcIndY (b : Byte) : Statement (.adcIndY b) := rfl
theorem sbcImm (v : Byte) : Statement (.sbcImm v) := rfl
theorem sbcZp (b : Byte) : Statement (.sbcZp b) := rfl
theorem sbcZpX (b : Byte) : Statement (.sbcZpX b) := rfl
theorem sbcAbs (w : Addr) : Statement (.sbcAbs w) := rfl
theorem sbcAbsX (w : Addr) : Statement (.sbcAbsX w) := rfl
theorem sbcAbsY (w : Addr) : Statement (.sbcAbsY w) := rfl
theorem sbcIndX (b : Byte) : Statement (.sbcIndX b) := rfl
theorem sbcIndY (b : Byte) : Statement (.sbcIndY b) := rfl
theorem cmpImm (v : Byte) : Statement (.cmpImm v) := rfl
theorem cmpZp (b : Byte) : Statement (.cmpZp b) := rfl
theorem cmpZpX (b : Byte) : Statement (.cmpZpX b) := rfl
theorem cmpAbs (w : Addr) : Statement (.cmpAbs w) := rfl
theorem cmpAbsX (w : Addr) : Statement (.cmpAbsX w) := rfl
theorem cmpAbsY (w : Addr) : Statement (.cmpAbsY w) := rfl
theorem cmpIndX (b : Byte) : Statement (.cmpIndX b) := rfl
theorem cmpIndY (b : Byte) : Statement (.cmpIndY b) := rfl
theorem cpxImm (v : Byte) : Statement (.cpxImm v) := rfl
theorem cpxZp (b : Byte) : Statement (.cpxZp b) := rfl
theorem cpxAbs (w : Addr) : Statement (.cpxAbs w) := rfl
theorem cpyImm (v : Byte) : Statement (.cpyImm v) := rfl
theorem cpyZp (b : Byte) : Statement (.cpyZp b) := rfl
theorem cpyAbs (w : Addr) : Statement (.cpyAbs w) := rfl
theorem andImm (v : Byte) : Statement (.andImm v) := rfl
theorem andZp (b : Byte) : Statement (.andZp b) := rfl
theorem andZpX (b : Byte) : Statement (.andZpX b) := rfl
theorem andAbs (w : Addr) : Statement (.andAbs w) := rfl
theorem andAbsX (w : Addr) : Statement (.andAbsX w) := rfl
theorem andAbsY (w : Addr) : Statement (.andAbsY w) := rfl
theorem andIndX (b : Byte) : Statement (.andIndX b) := rfl
theorem andIndY (b : Byte) : Statement (.andIndY b) := rfl
theorem oraImm (v : Byte) : Statement (.oraImm v) := rfl
theorem oraZp (b : Byte) : Statement (.oraZp b) := rfl
theorem oraZpX (b : Byte) : Statement (.oraZpX b) := rfl
theorem oraAbs (w : Addr) : Statement (.oraAbs w) := rfl
theorem oraAbsX (w : Addr) : Statement (.oraAbsX w) := rfl
theorem oraAbsY (w : Addr) : Statement (.oraAbsY w) := rfl
theorem oraIndX (b : Byte) : Statement (.oraIndX b) := rfl
theorem oraIndY (b : Byte) : Statement (.oraIndY b) := rfl
theorem eorImm (v : Byte) : Statement (.eorImm v) := rfl
theorem eorZp (b : Byte) : Statement (.eorZp b) := rfl
theorem eorZpX (b : Byte) : Statement (.eorZpX b) := rfl
theorem eorAbs (w : Addr) : Statement (.eorAbs w) := rfl
theorem eorAbsX (w : Addr) : Statement (.eorAbsX w) := rfl
theorem eorAbsY (w : Addr) : Statement (.eorAbsY w) := rfl
theorem eorIndX (b : Byte) : Statement (.eorIndX b) := rfl
theorem eorIndY (b : Byte) : Statement (.eorIndY b) := rfl
theorem bitZp (b : Byte) : Statement (.bitZp b) := rfl
theorem bitAbs (w : Addr) : Statement (.bitAbs w) := rfl
theorem aslAcc : Statement .aslAcc := rfl
theorem aslZp (b : Byte) : Statement (.aslZp b) := rfl
theorem aslZpX (b : Byte) : Statement (.aslZpX b) := rfl
theorem aslAbs (w : Addr) : Statement (.aslAbs w) := rfl
theorem aslAbsX (w : Addr) : Statement (.aslAbsX w) := rfl
theorem lsrAcc : Statement .lsrAcc := rfl
theorem lsrZp (b : Byte) : Statement (.lsrZp b) := rfl
theorem lsrZpX (b : Byte) : Statement (.lsrZpX b) := rfl
theorem lsrAbs (w : Addr) : Statement (.lsrAbs w) := rfl
theorem lsrAbsX (w : Addr) : Statement (.lsrAbsX w) := rfl
theorem rolAcc : Statement .rolAcc := rfl
theorem rolZp (b : Byte) : Statement (.rolZp b) := rfl
theorem rolZpX (b : Byte) : Statement (.rolZpX b) := rfl
theorem rolAbs (w : Addr) : Statement (.rolAbs w) := rfl
theorem rolAbsX (w : Addr) : Statement (.rolAbsX w) := rfl
theorem rorAcc : Statement .rorAcc := rfl
theorem rorZp (b : Byte) : Statement (.rorZp b) := rfl
theorem rorZpX (b : Byte) : Statement (.rorZpX b) := rfl
theorem rorAbs (w : Addr) : Statement (.rorAbs w) := rfl
theorem rorAbsX (w : Addr) : Statement (.rorAbsX w) := rfl
theorem incZp (b : Byte) : Statement (.incZp b) := rfl
theorem incZpX (b : Byte) : Statement (.incZpX b) := rfl
theorem incAbs (w : Addr) : Statement (.incAbs w) := rfl
theorem incAbsX (w : Addr) : Statement (.incAbsX w) := rfl
theorem decZp (b : Byte) : Statement (.decZp b) := rfl
theorem decZpX (b : Byte) : Statement (.decZpX b) := rfl
theorem decAbs (w : Addr) : Statement (.decAbs w) := rfl
theorem decAbsX (w : Addr) : Statement (.decAbsX w) := rfl
theorem inx : Statement .inx := rfl
theorem iny : Statement .iny := rfl
theorem dex : Statement .dex := rfl
theorem dey : Statement .dey := rfl
theorem bpl (off : Byte) : Statement (.bpl off) := rfl
theorem bmi (off : Byte) : Statement (.bmi off) := rfl
theorem bvc (off : Byte) : Statement (.bvc off) := rfl
theorem bvs (off : Byte) : Statement (.bvs off) := rfl
theorem bcc (off : Byte) : Statement (.bcc off) := rfl
theorem bcs (off : Byte) : Statement (.bcs off) := rfl
theorem bne (off : Byte) : Statement (.bne off) := rfl
theorem beq (off : Byte) : Statement (.beq off) := rfl
theorem jmpAbs (w : Addr) : Statement (.jmpAbs w) := rfl
theorem jmpInd (w : Addr) : Statement (.jmpInd w) := rfl
theorem jsrAbs (w : Addr) : Statement (.jsrAbs w) := rfl
theorem rts : Statement .rts := rfl
theorem pha : Statement .pha := rfl
theorem php : Statement .php := rfl
theorem pla : Statement .pla := rfl
theorem plp : Statement .plp := rfl
theorem brk : Statement .brk := rfl
theorem rti : Statement .rti := rfl
theorem clc : Statement .clc := rfl
theorem sec : Statement .sec := rfl
theorem cli : Statement .cli := rfl
theorem sei : Statement .sei := rfl
theorem cld : Statement .cld := rfl
theorem sed : Statement .sed := rfl
theorem clv : Statement .clv := rfl
theorem nop : Statement .nop := rfl

end Sys2Proof.Laws.TableRow
end

