-- ==== Sys2Proof/Laws/Step.lean ====
section
/-! SUPPORT. What a step can do: run the decoded instruction, or fault at an illegal opcode (spec/40_execute_cycle.md R400). -/

namespace Sys2Proof.Machine

/-- The two cases of a step. -/
theorem step_cases (s : State) :
    (∃ i, decodeAt (s.mem.read s.pc) (s.mem.read (s.pc + 1)) (s.mem.read (s.pc + 2)) = some i ∧ step s = exec i s) ∨
    (opcodeRow (s.mem.read s.pc) = none ∧ step s = .fault (.unknownOpcode s.pc (s.mem.read s.pc))) := by
  unfold step State.fetched
  cases h : opcodeRow (s.mem.read s.pc) with
  | none => exact .inr ⟨rfl, by simp [decodeAt, h]⟩
  | some r => exact .inl ⟨r.form.build (s.mem.read (s.pc + 1)) (s.mem.read (s.pc + 2)), by simp only [decodeAt, h, Option.map_some],
      by simp only [decodeAt, h, Option.map_some]⟩

end Sys2Proof.Machine
end

