-- ==== Sys2Proof/Tests/Slice0.lean ====
section
/-! SUPPORT. The model's own tests: the WellFormed smoke test, decoding from written-out words, the spec's vectors, and a
witness for the hypotheses of every statement that has some. Every expected value is the spec's. -/

namespace Sys2Proof.Tests

open Sys2Proof Sys2Proof.Machine Sys2Proof.Claims

/-- Cells written into zeroed memory. -/
def cellsOf (cells : List (Addr × Byte)) : Memory := cells.foldl (fun m c => m.write c.1 c.2) []

/-- The vectors' convention: the state after reset with the PC, the code there, and the cells given. -/
def start (pc : Addr) (code : List Byte) (cells : List (Addr × Byte)) : State :=
  { State.reset with pc := pc, mem := (cellsOf cells).writeBytes pc code }

/-- One step completes and its state is as wanted. -/
def yields (s : State) (q : State → Bool) : Bool :=
  match step s with
  | .next t => q t
  | .fault _ => false
  | .refused _ => false

/-- One step ends in the fault. -/
def faults (s : State) (f : Fault) : Bool :=
  match step s with
  | .next _ => false
  | .fault g => g == f
  | .refused _ => false

/-- A transaction ends as wanted with a state as wanted. -/
def settles (r : State × Ending) (e : Ending) (q : State → Bool) : Bool := r.2 == e && q r.1

/-! WellFormed: an ill-formed term for each check, which the check refuses (R309, R301). -/

/-- Check 1: STA has no Immediate mode (R309). -/
theorem test_wf_pair_refused : Parts.pairDefined ⟨.STA, .immediate, .byte 0x01⟩ = false := by decide
/-- Check 1 on another table hole: LDA has no ZeroPageY mode. -/
theorem test_wf_pair_refused_lda_zpy : Parts.wf ⟨.LDA, .zeroPageY, .byte 0x10⟩ = false := by decide
/-- Check 2: an Immediate operand is one byte, not a word (R301). -/
theorem test_wf_operand_refused : Parts.operandFits ⟨.LDA, .immediate, .word 0x1234⟩ = false := by decide
/-- Check 2: an Implicit instruction takes no operand byte. -/
theorem test_wf_operand_refused_nop : Parts.wf ⟨.NOP, .implicit, .byte 0x00⟩ = false := by decide
/-- Both checks pass on a table entry. -/
theorem test_wf_accepted : Parts.wf ⟨.LDX, .zeroPageY, .byte 0x10⟩ = true := by decide

/-! Rejecting (R308, V1519): the decoder names what it rejects. -/

theorem test_decode_rejects_0x89 : decodeAt 0x89 0x00 0x00 = none := by rfl
theorem test_decode_names_rejected : decode [0x89, 0x12] = .error (.unknownOpcode 0x89) := by rfl
theorem test_decode_names_truncated : decode [0xAD, 0x34] = .error .truncated := by rfl
/-- The table's bit numbering: bits 7..0 the opcode, 15..8 and 23..16 the operand word, low byte first. -/
theorem test_decodeTableWord : decodeTableWord 24 0x1234AD = some (.ldaAbs 0x1234) ∧
    decodeTableWord 8 0xA9 = some (.ldaImm 0x00) ∧ decodeTableWord 8 0x02 = none := by and_intros <;> rfl
/-- The step after `withFetchWord` runs that instruction. -/
theorem test_withFetchWord : yields (State.reset.withFetchWord 16 0x7FA2) (fun t => t.x == 0x7F && t.pc == 0x0002) = true := by rfl

/-! Decoding: for each family, every form by the word its row of R306 gives, the operand bytes 0x12 0x34 after it. -/

/-- Load and store (R500 to R505): the words of R306. -/
theorem test_decode_load_and_store :
  decodeAt 0xA9 0x12 0x34 = some (.ldaImm 0x12) ∧
  decodeAt 0xA5 0x12 0x34 = some (.ldaZp 0x12) ∧
  decodeAt 0xB5 0x12 0x34 = some (.ldaZpX 0x12) ∧
  decodeAt 0xAD 0x12 0x34 = some (.ldaAbs 0x3412) ∧
  decodeAt 0xBD 0x12 0x34 = some (.ldaAbsX 0x3412) ∧
  decodeAt 0xB9 0x12 0x34 = some (.ldaAbsY 0x3412) ∧
  decodeAt 0xA1 0x12 0x34 = some (.ldaIndX 0x12) ∧
  decodeAt 0xB1 0x12 0x34 = some (.ldaIndY 0x12) ∧
  decodeAt 0xA2 0x12 0x34 = some (.ldxImm 0x12) ∧
  decodeAt 0xA6 0x12 0x34 = some (.ldxZp 0x12) ∧
  decodeAt 0xB6 0x12 0x34 = some (.ldxZpY 0x12) ∧
  decodeAt 0xAE 0x12 0x34 = some (.ldxAbs 0x3412) ∧
  decodeAt 0xBE 0x12 0x34 = some (.ldxAbsY 0x3412) ∧
  decodeAt 0xA0 0x12 0x34 = some (.ldyImm 0x12) ∧
  decodeAt 0xA4 0x12 0x34 = some (.ldyZp 0x12) ∧
  decodeAt 0xB4 0x12 0x34 = some (.ldyZpX 0x12) ∧
  decodeAt 0xAC 0x12 0x34 = some (.ldyAbs 0x3412) ∧
  decodeAt 0xBC 0x12 0x34 = some (.ldyAbsX 0x3412) ∧
  decodeAt 0x85 0x12 0x34 = some (.staZp 0x12) ∧
  decodeAt 0x95 0x12 0x34 = some (.staZpX 0x12) ∧
  decodeAt 0x8D 0x12 0x34 = some (.staAbs 0x3412) ∧
  decodeAt 0x9D 0x12 0x34 = some (.staAbsX 0x3412) ∧
  decodeAt 0x99 0x12 0x34 = some (.staAbsY 0x3412) ∧
  decodeAt 0x81 0x12 0x34 = some (.staIndX 0x12) ∧
  decodeAt 0x91 0x12 0x34 = some (.staIndY 0x12) ∧
  decodeAt 0x86 0x12 0x34 = some (.stxZp 0x12) ∧
  decodeAt 0x96 0x12 0x34 = some (.stxZpY 0x12) ∧
  decodeAt 0x8E 0x12 0x34 = some (.stxAbs 0x3412) ∧
  decodeAt 0x84 0x12 0x34 = some (.styZp 0x12) ∧
  decodeAt 0x94 0x12 0x34 = some (.styZpX 0x12) ∧
  decodeAt 0x8C 0x12 0x34 = some (.styAbs 0x3412) := by
  and_intros <;> rfl

/-- Transfer (R600 to R605): the words of R306. -/
theorem test_decode_transfer :
  decodeAt 0xAA 0x12 0x34 = some .tax ∧
  decodeAt 0xA8 0x12 0x34 = some .tay ∧
  decodeAt 0x8A 0x12 0x34 = some .txa ∧
  decodeAt 0x98 0x12 0x34 = some .tya ∧
  decodeAt 0xBA 0x12 0x34 = some .tsx ∧
  decodeAt 0x9A 0x12 0x34 = some .txs := by
  and_intros <;> rfl

/-- Arithmetic (R701 to R705): the words of R306. -/
theorem test_decode_arithmetic :
  decodeAt 0x69 0x12 0x34 = some (.adcImm 0x12) ∧
  decodeAt 0x65 0x12 0x34 = some (.adcZp 0x12) ∧
  decodeAt 0x75 0x12 0x34 = some (.adcZpX 0x12) ∧
  decodeAt 0x6D 0x12 0x34 = some (.adcAbs 0x3412) ∧
  decodeAt 0x7D 0x12 0x34 = some (.adcAbsX 0x3412) ∧
  decodeAt 0x79 0x12 0x34 = some (.adcAbsY 0x3412) ∧
  decodeAt 0x61 0x12 0x34 = some (.adcIndX 0x12) ∧
  decodeAt 0x71 0x12 0x34 = some (.adcIndY 0x12) ∧
  decodeAt 0xE9 0x12 0x34 = some (.sbcImm 0x12) ∧
  decodeAt 0xE5 0x12 0x34 = some (.sbcZp 0x12) ∧
  decodeAt 0xF5 0x12 0x34 = some (.sbcZpX 0x12) ∧
  decodeAt 0xED 0x12 0x34 = some (.sbcAbs 0x3412) ∧
  decodeAt 0xFD 0x12 0x34 = some (.sbcAbsX 0x3412) ∧
  decodeAt 0xF9 0x12 0x34 = some (.sbcAbsY 0x3412) ∧
  decodeAt 0xE1 0x12 0x34 = some (.sbcIndX 0x12) ∧
  decodeAt 0xF1 0x12 0x34 = some (.sbcIndY 0x12) ∧
  decodeAt 0xC9 0x12 0x34 = some (.cmpImm 0x12) ∧
  decodeAt 0xC5 0x12 0x34 = some (.cmpZp 0x12) ∧
  decodeAt 0xD5 0x12 0x34 = some (.cmpZpX 0x12) ∧
  decodeAt 0xCD 0x12 0x34 = some (.cmpAbs 0x3412) ∧
  decodeAt 0xDD 0x12 0x34 = some (.cmpAbsX 0x3412) ∧
  decodeAt 0xD9 0x12 0x34 = some (.cmpAbsY 0x3412) ∧
  decodeAt 0xC1 0x12 0x34 = some (.cmpIndX 0x12) ∧
  decodeAt 0xD1 0x12 0x34 = some (.cmpIndY 0x12) ∧
  decodeAt 0xE0 0x12 0x34 = some (.cpxImm 0x12) ∧
  decodeAt 0xE4 0x12 0x34 = some (.cpxZp 0x12) ∧
  decodeAt 0xEC 0x12 0x34 = some (.cpxAbs 0x3412) ∧
  decodeAt 0xC0 0x12 0x34 = some (.cpyImm 0x12) ∧
  decodeAt 0xC4 0x12 0x34 = some (.cpyZp 0x12) ∧
  decodeAt 0xCC 0x12 0x34 = some (.cpyAbs 0x3412) := by
  and_intros <;> rfl

/-- Logic (R800 to R803): the words of R306. -/
theorem test_decode_logic :
  decodeAt 0x29 0x12 0x34 = some (.andImm 0x12) ∧
  decodeAt 0x25 0x12 0x34 = some (.andZp 0x12) ∧
  decodeAt 0x35 0x12 0x34 = some (.andZpX 0x12) ∧
  decodeAt 0x2D 0x12 0x34 = some (.andAbs 0x3412) ∧
  decodeAt 0x3D 0x12 0x34 = some (.andAbsX 0x3412) ∧
  decodeAt 0x39 0x12 0x34 = some (.andAbsY 0x3412) ∧
  decodeAt 0x21 0x12 0x34 = some (.andIndX 0x12) ∧
  decodeAt 0x31 0x12 0x34 = some (.andIndY 0x12) ∧
  decodeAt 0x09 0x12 0x34 = some (.oraImm 0x12) ∧
  decodeAt 0x05 0x12 0x34 = some (.oraZp 0x12) ∧
  decodeAt 0x15 0x12 0x34 = some (.oraZpX 0x12) ∧
  decodeAt 0x0D 0x12 0x34 = some (.oraAbs 0x3412) ∧
  decodeAt 0x1D 0x12 0x34 = some (.oraAbsX 0x3412) ∧
  decodeAt 0x19 0x12 0x34 = some (.oraAbsY 0x3412) ∧
  decodeAt 0x01 0x12 0x34 = some (.oraIndX 0x12) ∧
  decodeAt 0x11 0x12 0x34 = some (.oraIndY 0x12) ∧
  decodeAt 0x49 0x12 0x34 = some (.eorImm 0x12) ∧
  decodeAt 0x45 0x12 0x34 = some (.eorZp 0x12) ∧
  decodeAt 0x55 0x12 0x34 = some (.eorZpX 0x12) ∧
  decodeAt 0x4D 0x12 0x34 = some (.eorAbs 0x3412) ∧
  decodeAt 0x5D 0x12 0x34 = some (.eorAbsX 0x3412) ∧
  decodeAt 0x59 0x12 0x34 = some (.eorAbsY 0x3412) ∧
  decodeAt 0x41 0x12 0x34 = some (.eorIndX 0x12) ∧
  decodeAt 0x51 0x12 0x34 = some (.eorIndY 0x12) ∧
  decodeAt 0x24 0x12 0x34 = some (.bitZp 0x12) ∧
  decodeAt 0x2C 0x12 0x34 = some (.bitAbs 0x3412) := by
  and_intros <;> rfl

/-- Shift and rotate (R900 to R903): the words of R306. -/
theorem test_decode_shift_and_rotate :
  decodeAt 0x0A 0x12 0x34 = some .aslAcc ∧
  decodeAt 0x06 0x12 0x34 = some (.aslZp 0x12) ∧
  decodeAt 0x16 0x12 0x34 = some (.aslZpX 0x12) ∧
  decodeAt 0x0E 0x12 0x34 = some (.aslAbs 0x3412) ∧
  decodeAt 0x1E 0x12 0x34 = some (.aslAbsX 0x3412) ∧
  decodeAt 0x4A 0x12 0x34 = some .lsrAcc ∧
  decodeAt 0x46 0x12 0x34 = some (.lsrZp 0x12) ∧
  decodeAt 0x56 0x12 0x34 = some (.lsrZpX 0x12) ∧
  decodeAt 0x4E 0x12 0x34 = some (.lsrAbs 0x3412) ∧
  decodeAt 0x5E 0x12 0x34 = some (.lsrAbsX 0x3412) ∧
  decodeAt 0x2A 0x12 0x34 = some .rolAcc ∧
  decodeAt 0x26 0x12 0x34 = some (.rolZp 0x12) ∧
  decodeAt 0x36 0x12 0x34 = some (.rolZpX 0x12) ∧
  decodeAt 0x2E 0x12 0x34 = some (.rolAbs 0x3412) ∧
  decodeAt 0x3E 0x12 0x34 = some (.rolAbsX 0x3412) ∧
  decodeAt 0x6A 0x12 0x34 = some .rorAcc ∧
  decodeAt 0x66 0x12 0x34 = some (.rorZp 0x12) ∧
  decodeAt 0x76 0x12 0x34 = some (.rorZpX 0x12) ∧
  decodeAt 0x6E 0x12 0x34 = some (.rorAbs 0x3412) ∧
  decodeAt 0x7E 0x12 0x34 = some (.rorAbsX 0x3412) := by
  and_intros <;> rfl

/-- Increment and decrement (R1000 to R1005): the words of R306. -/
theorem test_decode_increment_and_decrement :
  decodeAt 0xE6 0x12 0x34 = some (.incZp 0x12) ∧
  decodeAt 0xF6 0x12 0x34 = some (.incZpX 0x12) ∧
  decodeAt 0xEE 0x12 0x34 = some (.incAbs 0x3412) ∧
  decodeAt 0xFE 0x12 0x34 = some (.incAbsX 0x3412) ∧
  decodeAt 0xC6 0x12 0x34 = some (.decZp 0x12) ∧
  decodeAt 0xD6 0x12 0x34 = some (.decZpX 0x12) ∧
  decodeAt 0xCE 0x12 0x34 = some (.decAbs 0x3412) ∧
  decodeAt 0xDE 0x12 0x34 = some (.decAbsX 0x3412) ∧
  decodeAt 0xE8 0x12 0x34 = some .inx ∧
  decodeAt 0xC8 0x12 0x34 = some .iny ∧
  decodeAt 0xCA 0x12 0x34 = some .dex ∧
  decodeAt 0x88 0x12 0x34 = some .dey := by
  and_intros <;> rfl

/-- Branch, jump, call and return (R1101 to R1111): the words of R306. -/
theorem test_decode_branch_jump_call_and_return :
  decodeAt 0x10 0x12 0x34 = some (.bpl 0x12) ∧
  decodeAt 0x30 0x12 0x34 = some (.bmi 0x12) ∧
  decodeAt 0x50 0x12 0x34 = some (.bvc 0x12) ∧
  decodeAt 0x70 0x12 0x34 = some (.bvs 0x12) ∧
  decodeAt 0x90 0x12 0x34 = some (.bcc 0x12) ∧
  decodeAt 0xB0 0x12 0x34 = some (.bcs 0x12) ∧
  decodeAt 0xD0 0x12 0x34 = some (.bne 0x12) ∧
  decodeAt 0xF0 0x12 0x34 = some (.beq 0x12) ∧
  decodeAt 0x4C 0x12 0x34 = some (.jmpAbs 0x3412) ∧
  decodeAt 0x6C 0x12 0x34 = some (.jmpInd 0x3412) ∧
  decodeAt 0x20 0x12 0x34 = some (.jsrAbs 0x3412) ∧
  decodeAt 0x60 0x12 0x34 = some .rts := by
  and_intros <;> rfl

/-- Stack (R1200 to R1203): the words of R306. -/
theorem test_decode_stack :
  decodeAt 0x48 0x12 0x34 = some .pha ∧
  decodeAt 0x08 0x12 0x34 = some .php ∧
  decodeAt 0x68 0x12 0x34 = some .pla ∧
  decodeAt 0x28 0x12 0x34 = some .plp := by
  and_intros <;> rfl

/-- System and flags (R1300 to R1309): the words of R306. -/
theorem test_decode_system_and_flags :
  decodeAt 0x00 0x12 0x34 = some .brk ∧
  decodeAt 0x40 0x12 0x34 = some .rti ∧
  decodeAt 0x18 0x12 0x34 = some .clc ∧
  decodeAt 0x38 0x12 0x34 = some .sec ∧
  decodeAt 0x58 0x12 0x34 = some .cli ∧
  decodeAt 0x78 0x12 0x34 = some .sei ∧
  decodeAt 0xD8 0x12 0x34 = some .cld ∧
  decodeAt 0xF8 0x12 0x34 = some .sed ∧
  decodeAt 0xB8 0x12 0x34 = some .clv ∧
  decodeAt 0xEA 0x12 0x34 = some .nop := by
  and_intros <;> rfl

/-! One step on a small state: the vectors of spec/95_test_vectors.md, part 2, by their numbers. -/

/-- V300: `LDA $10`. -/
theorem test_V300_ldaZp : yields (start 0x0600 [0xA5, 0x10] [(0x0010, 0x55)])
    (fun t => t.a == 0x55 && t.pc == 0x0602 && t.p == 0x24) = true := by rfl

/-- V301: `LDA $1234`. -/
theorem test_V301_ldaAbs : yields (start 0x0600 [0xAD, 0x34, 0x12] [(0x1234, 0x80)])
    (fun t => t.a == 0x80 && t.pc == 0x0603 && t.p == 0xA4) = true := by rfl

/-- V401: `LDA $1234`. -/
theorem test_V401_ldaAbs : yields (start 0xFFFE [0xAD, 0x34, 0x12] [(0x1234, 0x01)])
    (fun t => t.a == 0x01 && t.pc == 0x0001 && t.p == 0x24) = true := by rfl

/-- V302: `LDA $F0,X`. -/
theorem test_V302_ldaZpX : yields { start 0x0600 [0xB5, 0xF0] [(0x0010, 0x11), (0x0110, 0x22)] with x := 0x20 }
    (fun t => t.a == 0x11 && t.pc == 0x0602 && t.p == 0x24) = true := by rfl

/-- V303: `LDX $FF,Y`. -/
theorem test_V303_ldxZpY : yields { start 0x0600 [0xB6, 0xFF] [(0x0001, 0x33), (0x0101, 0x44)] with y := 0x02 }
    (fun t => t.x == 0x33 && t.pc == 0x0602 && t.p == 0x24) = true := by rfl

/-- V304: `LDA $FFFF,X`. -/
theorem test_V304_ldaAbsX : yields { start 0x0600 [0xBD, 0xFF, 0xFF] [(0x0001, 0x66)] with x := 0x02 }
    (fun t => t.a == 0x66 && t.pc == 0x0603 && t.p == 0x24) = true := by rfl

/-- V503: `LDA $1000,X`. -/
theorem test_V503_ldaAbsX : yields { start 0x0600 [0xBD, 0x00, 0x10] [(0x10FF, 0x01)] with x := 0xFF }
    (fun t => t.a == 0x01 && t.pc == 0x0603 && t.p == 0x24) = true := by rfl

/-- V305: `LDA $12F0,Y`. -/
theorem test_V305_ldaAbsY : yields { start 0x0600 [0xB9, 0xF0, 0x12] [(0x1310, 0x77)] with y := 0x20 }
    (fun t => t.a == 0x77 && t.pc == 0x0603 && t.p == 0x24) = true := by rfl

/-- V310: `LDA ($F0,X)`. -/
theorem test_V310_ldaIndX : yields { start 0x0600 [0xA1, 0xF0] [(0x0000, 0x00), (0x0001, 0x40), (0x4000, 0x99)] with x := 0x10 }
    (fun t => t.a == 0x99 && t.pc == 0x0602 && t.p == 0xA4) = true := by rfl

/-- V313: `LDA ($50),Y`. -/
theorem test_V313_ldaIndY : yields { start 0x0600 [0xB1, 0x50] [(0x0050, 0xF0), (0x0051, 0x40), (0x4110, 0xAB)] with y := 0x20 }
    (fun t => t.a == 0xAB && t.pc == 0x0602 && t.p == 0xA4) = true := by rfl

/-- V314: `LDA ($50),Y`. -/
theorem test_V314_ldaIndY : yields { start 0x0600 [0xB1, 0x50] [(0x0050, 0xF0), (0x0051, 0xFF), (0x0010, 0x01)] with y := 0x20 }
    (fun t => t.a == 0x01 && t.pc == 0x0602 && t.p == 0x24) = true := by rfl

/-- V400: `LDA #$42`. -/
theorem test_V400_ldaImm : yields (start 0xFFFF [0xA9, 0x42] [(0x0000, 0x42)])
    (fun t => t.a == 0x42 && t.pc == 0x0001 && t.p == 0x24) = true := by rfl

/-- V502: `LDA #$7F`. -/
theorem test_V502_ldaImm : yields { start 0x0600 [0xA9, 0x7F] [] with p := 0xE7 }
    (fun t => t.a == 0x7F && t.pc == 0x0602 && t.p == 0x65) = true := by rfl

/-- V504: `LDX $10,Y`. -/
theorem test_V504_ldxZpY : yields { start 0x0600 [0xB6, 0x10] [(0x0015, 0x00)] with y := 0x05 }
    (fun t => t.pc == 0x0602 && t.p == 0x26) = true := by rfl

/-- V505: `LDY $2000,X`. -/
theorem test_V505_ldyAbsX : yields { start 0x0600 [0xBC, 0x00, 0x20] [(0x2001, 0xFE)] with x := 0x01 }
    (fun t => t.y == 0xFE && t.pc == 0x0603 && t.p == 0xA4) = true := by rfl

/-- V506: `STA ($40),Y`. -/
theorem test_V506_staIndY : yields { start 0x0600 [0x91, 0x40] [(0x0040, 0x00), (0x0041, 0x03)] with a := 0x99, y := 0x03 }
    (fun t => t.pc == 0x0602 && t.p == 0x24 && t.mem.read 0x0303 == 0x99) = true := by rfl

/-- V507: `STA $0200`. -/
theorem test_V507_staAbs : yields { start 0x0600 [0x8D, 0x00, 0x02] [] with a := 0x00, p := 0xA5 }
    (fun t => t.pc == 0x0603 && t.p == 0xA5 && t.mem.read 0x0200 == 0x00) = true := by rfl

/-- V508: `STX $FF,Y`. -/
theorem test_V508_stxZpY : yields { start 0x0600 [0x96, 0xFF] [] with x := 0xAA, y := 0x01 }
    (fun t => t.pc == 0x0602 && t.p == 0x24 && t.mem.read 0x0000 == 0xAA) = true := by rfl

/-- V509: `STY $80,X`. -/
theorem test_V509_styZpX : yields { start 0x0600 [0x94, 0x80] [] with y := 0x3C, x := 0x90 }
    (fun t => t.pc == 0x0602 && t.p == 0x24 && t.mem.read 0x0010 == 0x3C) = true := by rfl

/-- V510: `STA $FF,X`. -/
theorem test_V510_staZpX : yields { start 0x0600 [0x95, 0xFF] [] with a := 0x77, x := 0x06 }
    (fun t => t.pc == 0x0602 && t.p == 0x24 && t.mem.read 0x0005 == 0x77) = true := by rfl

/-- V600: `TAX`. -/
theorem test_V600_tax : yields { start 0x0600 [0xAA] [] with a := 0x00, x := 0x55 }
    (fun t => t.x == 0x00 && t.pc == 0x0601 && t.p == 0x26) = true := by rfl

/-- V601: `TAY`. -/
theorem test_V601_tay : yields { start 0x0600 [0xA8] [] with a := 0x80 }
    (fun t => t.y == 0x80 && t.pc == 0x0601 && t.p == 0xA4) = true := by rfl

/-- V602: `TXA`. -/
theorem test_V602_txa : yields { start 0x0600 [0x8A] [] with x := 0x01, a := 0x80, p := 0xA4 }
    (fun t => t.a == 0x01 && t.pc == 0x0601 && t.p == 0x24) = true := by rfl

/-- V603: `TYA`. -/
theorem test_V603_tya : yields { start 0x0600 [0x98] [] with y := 0x00, a := 0x12 }
    (fun t => t.a == 0x00 && t.pc == 0x0601 && t.p == 0x26) = true := by rfl

/-- V604: `TSX`. -/
theorem test_V604_tsx : yields { start 0x0600 [0xBA] [] with sp := 0x00, x := 0x12 }
    (fun t => t.x == 0x00 && t.pc == 0x0601 && t.p == 0x26) = true := by rfl

/-- V605: `TXS`. -/
theorem test_V605_txs : yields { start 0x0600 [0x9A] [] with x := 0x00, p := 0xA4 }
    (fun t => t.sp == 0x00 && t.pc == 0x0601 && t.p == 0xA4) = true := by rfl

/-- V704: `ADC #$90`. -/
theorem test_V704_adcImm : yields { start 0x0600 [0x69, 0x90] [] with a := 0xD0 }
    (fun t => t.a == 0x60 && t.pc == 0x0602 && t.p == 0x65) = true := by rfl

/-- V705: `ADC #$00`. -/
theorem test_V705_adcImm : yields { start 0x0600 [0x69, 0x00] [] with a := 0xFF, p := 0x25 }
    (fun t => t.a == 0x00 && t.pc == 0x0602 && t.p == 0x27) = true := by rfl

/-- V707: `ADC $10`. -/
theorem test_V707_adcZp : yields { start 0x0600 [0x65, 0x10] [(0x0010, 0x01)] with a := 0x01, p := 0x64 }
    (fun t => t.a == 0x02 && t.pc == 0x0602 && t.p == 0x24) = true := by rfl

/-- V710: `SBC #$B0`. -/
theorem test_V710_sbcImm : yields { start 0x0600 [0xE9, 0xB0] [] with a := 0x50, p := 0x25 }
    (fun t => t.a == 0xA0 && t.pc == 0x0602 && t.p == 0xE4) = true := by rfl

/-- V711: `SBC #$00`. -/
theorem test_V711_sbcImm : yields { start 0x0600 [0xE9, 0x00] [] with a := 0x00 }
    (fun t => t.a == 0xFF && t.pc == 0x0602 && t.p == 0xA4) = true := by rfl

/-- V717: `CMP #$7F`. -/
theorem test_V717_cmpImm : yields { start 0x0600 [0xC9, 0x7F] [] with a := 0x80 }
    (fun t => t.pc == 0x0602 && t.p == 0x25) = true := by rfl

/-- V719: `CMP #$01`. -/
theorem test_V719_cmpImm : yields { start 0x0600 [0xC9, 0x01] [] with a := 0x01, p := 0x6C }
    (fun t => t.pc == 0x0602 && t.p == 0x6F) = true := by rfl

/-- V720: `CPX $10`. -/
theorem test_V720_cpxZp : yields { start 0x0600 [0xE4, 0x10] [(0x0010, 0xFF)] with x := 0xFF }
    (fun t => t.pc == 0x0602 && t.p == 0x27) = true := by rfl

/-- V721: `CPY $1234`. -/
theorem test_V721_cpyAbs : yields { start 0x0600 [0xCC, 0x34, 0x12] [(0x1234, 0x01)] with y := 0x00 }
    (fun t => t.pc == 0x0603 && t.p == 0xA4) = true := by rfl

/-- V801: `AND #$80`. -/
theorem test_V801_andImm : yields { start 0x0600 [0x29, 0x80] [] with a := 0xFF, p := 0x65 }
    (fun t => t.a == 0x80 && t.pc == 0x0602 && t.p == 0xE5) = true := by rfl

/-- V802: `ORA $10`. -/
theorem test_V802_oraZp : yields { start 0x0600 [0x05, 0x10] [(0x0010, 0x00)] with a := 0x00 }
    (fun t => t.pc == 0x0602 && t.p == 0x26) = true := by rfl

/-- V803: `EOR #$FF`. -/
theorem test_V803_eorImm : yields { start 0x0600 [0x49, 0xFF] [] with a := 0x5A }
    (fun t => t.a == 0xA5 && t.pc == 0x0602 && t.p == 0xA4) = true := by rfl

/-- V805: `BIT $1234`. -/
theorem test_V805_bitAbs : yields { start 0x0600 [0x2C, 0x34, 0x12] [(0x1234, 0xC0)] with a := 0x00 }
    (fun t => t.pc == 0x0603 && t.p == 0xE6) = true := by rfl

/-- V806: `BIT $10`. -/
theorem test_V806_bitZp : yields { start 0x0600 [0x24, 0x10] [(0x0010, 0x01)] with a := 0xFF, p := 0xE4 }
    (fun t => t.pc == 0x0602 && t.p == 0x24) = true := by rfl

/-- V900: `ASL $10`. -/
theorem test_V900_aslZp : yields (start 0x0600 [0x06, 0x10] [(0x0010, 0x80)])
    (fun t => t.pc == 0x0602 && t.p == 0x27 && t.mem.read 0x0010 == 0x00) = true := by rfl

/-- V901: `ASL $1000,X`. -/
theorem test_V901_aslAbsX : yields { start 0x0600 [0x1E, 0x00, 0x10] [(0x1001, 0x40)] with x := 0x01, p := 0x25 }
    (fun t => t.pc == 0x0603 && t.p == 0xA4 && t.mem.read 0x1001 == 0x80) = true := by rfl

/-- V902: `LSR A`. -/
theorem test_V902_lsrAcc : yields { start 0x0600 [0x4A] [] with a := 0x01 }
    (fun t => t.a == 0x00 && t.pc == 0x0601 && t.p == 0x27) = true := by rfl

/-- V903: `LSR A`. -/
theorem test_V903_lsrAcc : yields { start 0x0600 [0x4A] [] with a := 0xFF, p := 0xA4 }
    (fun t => t.a == 0x7F && t.pc == 0x0601 && t.p == 0x25) = true := by rfl

/-- V904: `ROL A`. -/
theorem test_V904_rolAcc : yields { start 0x0600 [0x2A] [] with a := 0x80 }
    (fun t => t.a == 0x00 && t.pc == 0x0601 && t.p == 0x27) = true := by rfl

/-- V905: `ROL $20,X`. -/
theorem test_V905_rolZpX : yields { start 0x0600 [0x36, 0x20] [(0x0021, 0x7F)] with x := 0x01, p := 0x25 }
    (fun t => t.pc == 0x0602 && t.p == 0xA4 && t.mem.read 0x0021 == 0xFF) = true := by rfl

/-- V906: `ROR A`. -/
theorem test_V906_rorAcc : yields { start 0x0600 [0x6A] [] with a := 0x01, p := 0x25 }
    (fun t => t.a == 0x80 && t.pc == 0x0601 && t.p == 0xA5) = true := by rfl

/-- V907: `ROR $1234`. -/
theorem test_V907_rorAbs : yields (start 0x0600 [0x6E, 0x34, 0x12] [(0x1234, 0x01)])
    (fun t => t.pc == 0x0603 && t.p == 0x27 && t.mem.read 0x1234 == 0x00) = true := by rfl

/-- V1000: `INC $10`. -/
theorem test_V1000_incZp : yields (start 0x0600 [0xE6, 0x10] [(0x0010, 0x7F)])
    (fun t => t.pc == 0x0602 && t.p == 0xA4 && t.mem.read 0x0010 == 0x80) = true := by rfl

/-- V1001: `INC $1000,X`. -/
theorem test_V1001_incAbsX : yields { start 0x0600 [0xFE, 0x00, 0x10] [(0x1010, 0xFF)] with x := 0x10 }
    (fun t => t.pc == 0x0603 && t.p == 0x26 && t.mem.read 0x1010 == 0x00) = true := by rfl

/-- V1002: `DEC $10,X`. -/
theorem test_V1002_decZpX : yields { start 0x0600 [0xD6, 0x10] [(0x0005, 0x00)] with x := 0xF5 }
    (fun t => t.pc == 0x0602 && t.p == 0xA4 && t.mem.read 0x0005 == 0xFF) = true := by rfl

/-- V1003: `INX`. -/
theorem test_V1003_inx : yields { start 0x0600 [0xE8] [] with x := 0xFF }
    (fun t => t.x == 0x00 && t.pc == 0x0601 && t.p == 0x26) = true := by rfl

/-- V1004: `INY`. -/
theorem test_V1004_iny : yields { start 0x0600 [0xC8] [] with y := 0x7F }
    (fun t => t.y == 0x80 && t.pc == 0x0601 && t.p == 0xA4) = true := by rfl

/-- V1005: `DEX`. -/
theorem test_V1005_dex : yields { start 0x0600 [0xCA] [] with x := 0x00 }
    (fun t => t.x == 0xFF && t.pc == 0x0601 && t.p == 0xA4) = true := by rfl

/-- V1006: `DEY`. -/
theorem test_V1006_dey : yields { start 0x0600 [0x88] [] with y := 0x01 }
    (fun t => t.y == 0x00 && t.pc == 0x0601 && t.p == 0x26) = true := by rfl

/-- V1007: `INC $10`. -/
theorem test_V1007_incZp : yields { start 0x0600 [0xE6, 0x10] [(0x0010, 0x09)] with p := 0x2C }
    (fun t => t.pc == 0x0602 && t.p == 0x2C && t.mem.read 0x0010 == 0x0A) = true := by rfl

/-- V1100: `BPL $10`. -/
theorem test_V1100_bpl : yields { start 0x0600 [0x10, 0x10] [] with p := 0x24 }
    (fun t => t.pc == 0x0612 && t.p == 0x24) = true := by rfl

/-- V1101: `BPL $10`. -/
theorem test_V1101_bpl : yields { start 0x0600 [0x10, 0x10] [] with p := 0xA4 }
    (fun t => t.pc == 0x0602 && t.p == 0xA4) = true := by rfl

/-- V1102: `BMI $10`. -/
theorem test_V1102_bmi : yields { start 0x0600 [0x30, 0x10] [] with p := 0xA4 }
    (fun t => t.pc == 0x0612 && t.p == 0xA4) = true := by rfl

/-- V1103: `BMI $10`. -/
theorem test_V1103_bmi : yields { start 0x0600 [0x30, 0x10] [] with p := 0x24 }
    (fun t => t.pc == 0x0602 && t.p == 0x24) = true := by rfl

/-- V1104: `BVC $10`. -/
theorem test_V1104_bvc : yields { start 0x0600 [0x50, 0x10] [] with p := 0x24 }
    (fun t => t.pc == 0x0612 && t.p == 0x24) = true := by rfl

/-- V1105: `BVC $10`. -/
theorem test_V1105_bvc : yields { start 0x0600 [0x50, 0x10] [] with p := 0x64 }
    (fun t => t.pc == 0x0602 && t.p == 0x64) = true := by rfl

/-- V1106: `BVS $10`. -/
theorem test_V1106_bvs : yields { start 0x0600 [0x70, 0x10] [] with p := 0x64 }
    (fun t => t.pc == 0x0612 && t.p == 0x64) = true := by rfl

/-- V1107: `BVS $10`. -/
theorem test_V1107_bvs : yields { start 0x0600 [0x70, 0x10] [] with p := 0x24 }
    (fun t => t.pc == 0x0602 && t.p == 0x24) = true := by rfl

/-- V1108: `BCC $10`. -/
theorem test_V1108_bcc : yields { start 0x0600 [0x90, 0x10] [] with p := 0x24 }
    (fun t => t.pc == 0x0612 && t.p == 0x24) = true := by rfl

/-- V1109: `BCC $10`. -/
theorem test_V1109_bcc : yields { start 0x0600 [0x90, 0x10] [] with p := 0x25 }
    (fun t => t.pc == 0x0602 && t.p == 0x25) = true := by rfl

/-- V1110: `BCS $10`. -/
theorem test_V1110_bcs : yields { start 0x0600 [0xB0, 0x10] [] with p := 0x25 }
    (fun t => t.pc == 0x0612 && t.p == 0x25) = true := by rfl

/-- V1111: `BCS $10`. -/
theorem test_V1111_bcs : yields { start 0x0600 [0xB0, 0x10] [] with p := 0x24 }
    (fun t => t.pc == 0x0602 && t.p == 0x24) = true := by rfl

/-- V1113: `BNE $10`. -/
theorem test_V1113_bne : yields { start 0x0600 [0xD0, 0x10] [] with p := 0x26 }
    (fun t => t.pc == 0x0602 && t.p == 0x26) = true := by rfl

/-- V1116: `BNE $80`. -/
theorem test_V1116_bne : yields (start 0x0600 [0xD0, 0x80] [])
    (fun t => t.pc == 0x0582 && t.p == 0x24) = true := by rfl

/-- V1115: `BEQ $10`. -/
theorem test_V1115_beq : yields { start 0x0600 [0xF0, 0x10] [] with p := 0x24 }
    (fun t => t.pc == 0x0602 && t.p == 0x24) = true := by rfl

/-- V1119: `BEQ $01`. -/
theorem test_V1119_beq : yields { start 0xFFFE [0xF0, 0x01] [] with p := 0x26 }
    (fun t => t.pc == 0x0001 && t.p == 0x26) = true := by rfl

/-- V1121: `JMP $1234`. -/
theorem test_V1121_jmpAbs : yields (start 0x0600 [0x4C, 0x34, 0x12] [])
    (fun t => t.pc == 0x1234 && t.p == 0x24) = true := by rfl

/-- V1123: `JSR $1234`. -/
theorem test_V1123_jsrAbs : yields { start 0x0600 [0x20, 0x34, 0x12] [] with sp := 0x00 }
    (fun t => t.sp == 0xFE && t.pc == 0x1234 && t.p == 0x24 && t.mem.read 0x0100 == 0x06 && t.mem.read 0x01FF == 0x02) = true := by rfl

/-- V1124: `JSR $1234`. -/
theorem test_V1124_jsrAbs : yields (start 0x12FE [0x20, 0x34, 0x12] [])
    (fun t => t.sp == 0xFD && t.pc == 0x1234 && t.p == 0x24 && t.mem.read 0x01FE == 0x00 && t.mem.read 0x01FF == 0x13) = true := by rfl

/-- V1126: `RTS`. -/
theorem test_V1126_rts : yields { start 0x0600 [0x60] [(0x01FE, 0xFF), (0x01FF, 0xFF)] with sp := 0xFD }
    (fun t => t.sp == 0xFF && t.pc == 0x0000 && t.p == 0x24) = true := by rfl

/-- V1127: `RTS`. -/
theorem test_V1127_rts : yields { start 0x0600 [0x60] [(0x0100, 0x00), (0x0101, 0x80)] with sp := 0xFF }
    (fun t => t.sp == 0x01 && t.pc == 0x8001 && t.p == 0x24) = true := by rfl

/-- V1200: `PHA`. -/
theorem test_V1200_pha : yields { start 0x0600 [0x48] [] with a := 0x42, sp := 0x00 }
    (fun t => t.sp == 0xFF && t.pc == 0x0601 && t.p == 0x24 && t.mem.read 0x0100 == 0x42) = true := by rfl

/-- V1204: `PLA`. -/
theorem test_V1204_pla : yields { start 0x0600 [0x68] [(0x01FF, 0x00)] with sp := 0xFE, a := 0x33 }
    (fun t => t.a == 0x00 && t.sp == 0xFF && t.pc == 0x0601 && t.p == 0x26) = true := by rfl

/-- V1205: `PLA`. -/
theorem test_V1205_pla : yields { start 0x0600 [0x68] [(0x0100, 0x90)] with sp := 0xFF }
    (fun t => t.a == 0x90 && t.sp == 0x00 && t.pc == 0x0601 && t.p == 0xA4) = true := by rfl

/-- V1206: `PLP`. -/
theorem test_V1206_plp : yields { start 0x0600 [0x28] [(0x01FF, 0x00)] with sp := 0xFE }
    (fun t => t.sp == 0xFF && t.pc == 0x0601 && t.p == 0x20) = true := by rfl

/-- V1207: `PLP`. -/
theorem test_V1207_plp : yields { start 0x0600 [0x28] [(0x01FF, 0xFF)] with sp := 0xFE }
    (fun t => t.sp == 0xFF && t.pc == 0x0601 && t.p == 0xFF) = true := by rfl

/-- V1300: `BRK`. -/
theorem test_V1300_brk : yields { start 0x0600 [0x00] [(0xFFFE, 0x00), (0xFFFF, 0x90)] with p := 0xA3 }
    (fun t => t.sp == 0xFC && t.pc == 0x9000 && t.p == 0xA7 && t.mem.read 0x01FD == 0xB3 && t.mem.read 0x01FE == 0x02 && t.mem.read 0x01FF == 0x06) = true := by rfl

/-- V1302: `BRK`. -/
theorem test_V1302_brk : yields { start 0x0600 [0x00] [(0xFFFE, 0x00), (0xFFFF, 0x80)] with sp := 0x01 }
    (fun t => t.sp == 0xFE && t.pc == 0x8000 && t.p == 0x24 && t.mem.read 0x0100 == 0x02 && t.mem.read 0x0101 == 0x06 && t.mem.read 0x01FF == 0x34) = true := by rfl

/-- V1303: `RTI`. -/
theorem test_V1303_rti : yields { start 0x0600 [0x40] [(0x01FD, 0x10), (0x01FE, 0x34), (0x01FF, 0x12)] with sp := 0xFC }
    (fun t => t.sp == 0xFF && t.pc == 0x1234 && t.p == 0x30) = true := by rfl

/-- V1304: `RTI`. -/
theorem test_V1304_rti : yields { start 0x0600 [0x40] [(0x01FD, 0xC3), (0x01FE, 0x00), (0x01FF, 0x07)] with sp := 0xFC, p := 0x24 }
    (fun t => t.sp == 0xFF && t.pc == 0x0700 && t.p == 0xE3) = true := by rfl

/-- V1305: `CLC`. -/
theorem test_V1305_clc : yields { start 0x0600 [0x18] [] with p := 0xFF }
    (fun t => t.pc == 0x0601 && t.p == 0xFE) = true := by rfl

/-- V1306: `SEC`. -/
theorem test_V1306_sec : yields { start 0x0600 [0x38] [] with p := 0x20 }
    (fun t => t.pc == 0x0601 && t.p == 0x21) = true := by rfl

/-- V1307: `CLI`. -/
theorem test_V1307_cli : yields { start 0x0600 [0x58] [] with p := 0xFF }
    (fun t => t.pc == 0x0601 && t.p == 0xFB) = true := by rfl

/-- V1308: `SEI`. -/
theorem test_V1308_sei : yields { start 0x0600 [0x78] [] with p := 0x20 }
    (fun t => t.pc == 0x0601 && t.p == 0x24) = true := by rfl

/-- V1309: `CLD`. -/
theorem test_V1309_cld : yields { start 0x0600 [0xD8] [] with p := 0xFF }
    (fun t => t.pc == 0x0601 && t.p == 0xF7) = true := by rfl

/-- V1310: `SED`. -/
theorem test_V1310_sed : yields { start 0x0600 [0xF8] [] with p := 0x20 }
    (fun t => t.pc == 0x0601 && t.p == 0x28) = true := by rfl

/-- V1311: `CLV`. -/
theorem test_V1311_clv : yields { start 0x0600 [0xB8] [] with p := 0xFF }
    (fun t => t.pc == 0x0601 && t.p == 0xBF) = true := by rfl

/-- V1312: `NOP`. -/
theorem test_V1312_nop : yields { start 0x0600 [0xEA] [] with p := 0xFF, a := 0x12 }
    (fun t => t.pc == 0x0601 && t.p == 0xFF) = true := by rfl

/-- V402: `NOP`. -/
theorem test_V402_nop : yields (start 0xFFFF [0xEA] [])
    (fun t => t.pc == 0x0000 && t.p == 0x24) = true := by rfl

/-! Faults (V1400, V1412, V714, V1413): nothing else happens. -/

theorem test_V1400_illegal : faults (start 0x0600 [0x02] []) (.unknownOpcode 0x0600 0x02) = true := by rfl
theorem test_V1412_illegal_at_top : faults (start 0xFFFF [0x02] []) (.unknownOpcode 0xFFFF 0x02) = true := by rfl
theorem test_V714_sbc_decimal : faults { start 0x0600 [0xE9, 0x01] [] with a := 0x05, p := 0x2D }
    (.unsupportedArithmeticMode 0x0600 0xE9) = true := by rfl
theorem test_V1413_adc_decimal : faults { start 0x0600 [0x61, 0x50] [] with x := 0x05, p := 0x2C }
    (.unsupportedArithmeticMode 0x0600 0x61) = true := by rfl

/-! The three open parameters, at each of their values (V306 to V309, V311, V312, V315, V316, V1201 to V1203). -/

theorem test_V306_V307_jmp_indirect :
    indirectWith false (cellsOf [(0x10FF, 0x34), (0x1100, 0x12), (0x1000, 0x56)]) 0x10FF = 0x1234 ∧
    indirectWith true (cellsOf [(0x10FF, 0x34), (0x1100, 0x12), (0x1000, 0x56)]) 0x10FF = 0x5634 := by and_intros <;> rfl
theorem test_V308_V309_jmp_indirect_top :
    indirectWith false (cellsOf [(0xFFFF, 0x34), (0x0000, 0x12), (0xFF00, 0x56)]) 0xFFFF = 0x1234 ∧
    indirectWith true (cellsOf [(0xFFFF, 0x34), (0x0000, 0x12), (0xFF00, 0x56)]) 0xFFFF = 0x5634 := by and_intros <;> rfl
theorem test_V311_V312_pointer_wrap :
    eaWith false (.xIndexedIndirect 0xFF) (start 0x0600 [] [(0x00FF, 0x00), (0x0100, 0x30), (0x0000, 0x20)]) = 0x3000 ∧
    eaWith true (.xIndexedIndirect 0xFF) (start 0x0600 [] [(0x00FF, 0x00), (0x0100, 0x30), (0x0000, 0x20)]) = 0x2000 := by and_intros <;> rfl
theorem test_V315_V316_pointer_wrap :
    eaWith false (.indirectYIndexed 0xFF)
      { start 0x0600 [] [(0x00FF, 0x00), (0x0100, 0x30), (0x0000, 0x20)] with y := 0x01 } = 0x3001 ∧
    eaWith true (.indirectYIndexed 0xFF)
      { start 0x0600 [] [(0x00FF, 0x00), (0x0100, 0x30), (0x0000, 0x20)] with y := 0x01 } = 0x2001 := by and_intros <;> rfl
theorem test_V1201_to_V1203_php_byte : phpByteWith .verbatim 0xE7 = 0xE7 ∧ phpByteWith .set 0xE7 = 0xF7 ∧
    phpByteWith .verbatim 0x34 = 0x34 := by decide

/-! Reset, LoadProgram and the host's accesses (V1500 to V1510), and counted runs (V1512, V1514). -/

theorem test_V1500_reset :
    resetBlock { a := 0x12, x := 0x34, y := 0x56, sp := 0x00, pc := 0x1234, p := 0xFF, mem := cellsOf [(0xFFFD, 0x80)] } =
      { State.reset with pc := 0x8000, mem := cellsOf [(0xFFFD, 0x80)] } := by rfl
theorem test_V1502_loadProgram : settles (transact (.loadProgram [0xEA] 0x0600 0x0600) State.reset) .ok (fun t =>
    t.mem.read 0x0600 == 0xEA && t.mem.read 0xFFFC == 0x00 && t.mem.read 0xFFFD == 0x06 && t.pc == 0x0600) = true := by rfl
theorem test_V1503_loadProgram_fits : settles (transact (.loadProgram (List.replicate 16 0xEA) 0xFFF0 0x0600) State.reset) .ok
    (fun t => t.mem.read 0xFFF0 == 0xEA && t.mem.read 0xFFFF == 0xEA && t.pc == 0xEAEA) = true := by rfl
theorem test_V1504_loadProgram_overruns : settles (transact (.loadProgram (List.replicate 17 0xEA) 0xFFF0 0x0600) State.reset)
    (.fault (.outOfMemory 0xFFF0 17)) (fun t => t == State.reset) = true := by rfl
theorem test_V1505_loadProgram_over_vector : settles (transact (.loadProgram [0x00, 0x07] 0xFFFC 0x0600) State.reset) .ok
    (fun t => t.pc == 0x0700) = true := by rfl
theorem test_V1508_copyBytes_overruns : settles (transact (.copyBytes 0xFFFF [0x01, 0x02]) State.reset)
    (.fault (.outOfMemory 0xFFFF 2)) (fun t => t == State.reset) = true := by rfl
theorem test_V1509_readU16_wraps : readU16 0xFFFF (start 0x0600 [] [(0xFFFF, 0x34), (0x0000, 0x12)]) = 0x1234 := by rfl
/-- R202 at the top of memory: the byte there and no other. -/
theorem test_writeU8 : readU8 0xFFFF (writeU8 0xFFFF 0x5A State.reset) = 0x5A ∧
    readU8 0x0000 (writeU8 0xFFFF 0x5A State.reset) = 0x00 := by and_intros <;> rfl
theorem test_V1510_writeU16 : (writeU16 0x01FF 0xABCD State.reset).mem = cellsOf [(0x01FF, 0xCD), (0x0200, 0xAB)] := by rfl
theorem test_V1512_run_stops_at_fault : settles (processInstructions 3 (start 0x0600 [0xF8, 0x69, 0x01, 0xEA] []))
    (.fault (.unsupportedArithmeticMode 0x0601 0x69)) (fun t => t.p == 0x2C && t.pc == 0x0601) = true := by rfl
theorem test_V1514_run_stops_at_illegal : settles (processInstructions 2 (start 0x0600 [0xEA, 0x02] []))
    (.fault (.unknownOpcode 0x0601 0x02)) (fun t => t.pc == 0x0601) = true := by rfl

/-! Encode (V1520 to V1524) and the assembler (V1525 to V1544). -/

theorem test_V1520_to_V1524_encode : encodeOpcode .STA .immediate = .error (.unsupportedEncoding .STA .immediate) ∧
    encodeOpcode .LDA .zeroPageY = .error (.unsupportedEncoding .LDA .zeroPageY) ∧ encodeOpcode .LDX .zeroPageY = .ok 0xB6 ∧
    encodeOpcode .BIT .immediate = .error (.unsupportedEncoding .BIT .immediate) ∧
    encodeOpcode .JMP .absoluteX = .error (.unsupportedEncoding .JMP .absoluteX) := by refine ⟨?_, ?_, ?_, ?_, ?_⟩ <;> rfl

/-- A line assembles to the bytes at 0x0600. -/
def assembles (line : String) (bytes : List Byte) : Bool :=
  match assembleTokens (tokens line.toList) with
  | .ok b => b == bytes
  | .error _ => false

/-- A line is rejected for the reason. -/
def rejects (line : String) (r : ParseReason) : Bool :=
  match assembleTokens (tokens line.toList) with
  | .ok _ => false
  | .error e => e == r

theorem test_V1525_to_V1529_lines : assembles "LDA #$01" [0xA9, 0x01] = true ∧ assembles "lda $10,x" [0xB5, 0x10] = true ∧
    assembles "STA $0200,Y" [0x99, 0x00, 0x02] = true ∧ assembles "LDA $0050" [0xAD, 0x50, 0x00] = true ∧
    assembles "JMP ($1234)" [0x6C, 0x34, 0x12] = true := by and_intros <;> rfl
theorem test_V1530_to_V1534_lines : assembles "LDA ($20,X)" [0xA1, 0x20] = true ∧ assembles "STA ($20),Y" [0x91, 0x20] = true ∧
    assembles "ASL A" [0x0A] = true ∧ rejects "ASL" .noTableEntry = true ∧ assembles "BNE $FC" [0xD0, 0xFC] = true := by and_intros <;> rfl
theorem test_V1535_to_V1539_lines : rejects "BNE $0600" .noTableEntry = true ∧ rejects "STA #$01" .noTableEntry = true ∧
    rejects "LDA $123" .badOperand = true ∧ rejects "LDA $10,Y" .noTableEntry = true ∧
    rejects "JMP $10" .noTableEntry = true := by and_intros <;> rfl
theorem test_V1540_to_V1543_lines : rejects "LDA #$01 ; load" .extraToken = true ∧ rejects "XYZ" .unknownMnemonic = true ∧
    rejects "LDA 10" .badOperand = true ∧ rejects "JMP ($12)" .badOperand = true := by and_intros <;> rfl
theorem test_V1544_text : assemble "NOP\n\nRTS".toList 0x0300 = .ok ⟨[0xEA, 0x60], 0x0300, 0x0300⟩ := by rfl

/-! Witnesses: a concrete state and operands that meet all the hypotheses of a statement together, clause by clause. -/

/-- Meets DecodedBytesAreTheEncoding: one, two and three bytes, with and without a rest. -/
theorem witness_DecodedBytesAreTheEncoding : decode [0xEA] = .ok (.nop, []) ∧ decode [0xA9, 0x12, 0x34] = .ok (.ldaImm 0x12, [0x34]) ∧
    decode [0xAD, 0x34, 0x12] = .ok (.ldaAbs 0x1234, []) := by refine ⟨?_, ?_, ?_⟩ <;> rfl

/-- Meets both lookups of OpcodeLookupsAreInverse. -/
theorem witness_OpcodeLookupsAreInverse : encodeOpcode .LDX .zeroPageY = .ok 0xB6 ∧
    decodeOpcode 0xB6 = some (.LDX, .zeroPageY, 2) := by refine ⟨?_, ?_⟩ <;> rfl

/-- Meets both sides of UndefinedPairsAreUnsupported, and a pair that is defined. -/
theorem witness_UndefinedPairsAreUnsupported :
    encodeOpcode .STA .immediate = .error (.unsupportedEncoding .STA .immediate) ∧
    ∃ op n, decodeOpcode op = some (.STA, .absolute, n) := ⟨rfl, 0x8D, 3, rfl⟩

/-- Meets IllegalOpcodesFault at the first and the last illegal byte, and at the top of memory. -/
theorem witness_IllegalOpcodesFault : (start 0x0600 [0x02] []).mem.read 0x0600 ∈ illegalOpcodes ∧
    (start 0xFFFF [0xFF] []).mem.read 0xFFFF ∈ illegalOpcodes ∧ decodeOpcode 0xFF = none := by decide +kernel

/-- Meets StepRunsDecodedInstruction, the operand bytes wrapping past 0xFFFF. -/
theorem witness_StepRunsDecodedInstruction :
    let s := start 0xFFFF [0xAD] [(0x0000, 0x34), (0x0001, 0x12)]
    decodeAt (s.mem.read s.pc) (s.mem.read (s.pc + 1)) (s.mem.read (s.pc + 2)) = some (.ldaAbs 0x1234) := by decide +kernel

/-- Meets StepRunsTheInstructionStoredAtPC with a one-byte and a three-byte instruction. -/
theorem witness_StepRunsTheInstructionStoredAtPC :
    (∀ k : Nat, k < (encode .nop).length →
      (encode .nop)[k]? = some ((start 0xFFFF [0xEA] []).mem.read (0xFFFF + BitVec.ofNat 16 k))) ∧
    (∀ k : Nat, k < (encode (.jsrAbs 0x1234)).length → (encode (.jsrAbs 0x1234))[k]? =
      some ((start 0xFFFE [0x20, 0x34] [(0x0000, 0x12)]).mem.read (0xFFFE + BitVec.ofNat 16 k))) := by decide +kernel

/-- Meets StepFaultsExactly: both kinds of step fault, and the fault of a load. -/
theorem witness_StepFaultsExactly :
    step (start 0x0600 [0x02] []) = .fault (.unknownOpcode 0x0600 0x02) ∧
    step { start 0x0600 [0x61, 0x50] [] with p := 0x2C } = .fault (.unsupportedArithmeticMode 0x0600 0x61) ∧
    loadProgram [0x01, 0x02] 0xFFFF 0x0600 State.reset = .fault (.outOfMemory 0xFFFF 2) := by refine ⟨?_, ?_, ?_⟩ <;> rfl

/-- Meets EveryInstructionCompletesOutsideDecimal: ADC with D = 0, AND with D = 1, and SBC with D = 1. -/
theorem witness_EveryInstructionCompletesOutsideDecimal :
    ¬ (((Instr.adcImm 0x01).mnemonic = .ADC ∨ (Instr.adcImm 0x01).mnemonic = .SBC) ∧ State.reset.flag .D = true) ∧
    ¬ (((Instr.andImm 0x01).mnemonic = .ADC ∨ (Instr.andImm 0x01).mnemonic = .SBC) ∧
      ({ State.reset with p := 0x2C } : State).flag .D = true) ∧
    ((Instr.sbcImm 0x01).mnemonic = .ADC ∨ (Instr.sbcImm 0x01).mnemonic = .SBC) ∧
    ({ State.reset with p := 0x2C } : State).flag .D = true := by decide

/-- Meets StepKeepsTheInvariant: a store into a memory that lists bytes. -/
theorem witness_StepKeepsTheInvariant : (start 0x0600 [0x8D, 0x00, 0x02] [(0x0200, 0x55)]).Inv ∧
    ∃ t, step (start 0x0600 [0x8D, 0x00, 0x02] [(0x0200, 0x55)]) = .next t := ⟨by decide +kernel, _, rfl⟩

/-- Meets UnusedBitIsOneInReachableStates: a reachable state after a transaction, and an instruction that completes. -/
theorem witness_UnusedBitIsOneInReachableStates :
    Reachable (transact (.writeU8 0x0200 0x55) (construct 0x01 0x02 0x03 0x04 0x0506 0x00)).1 ∧
    ∃ t, exec .plp State.reset = .next t ∧ State.reset.p.getLsbD 5 = true :=
  ⟨.transact _ _ (.construct _ _ _ _ _ _), _, rfl, by decide⟩

/-- Meets MemoryIsCanonicalInReachableStates with a memory that lists a byte. -/
theorem witness_MemoryIsCanonicalInReachableStates :
    Reachable (transact (.writeU8 0xFFFF 0x55) (construct 0xFF 0x00 0x00 0x00 0x0000 0xFF)).1 :=
  .transact _ _ (.construct _ _ _ _ _ _)

/-- Meets CanonicalMemoryIsUnique: two memories written in different orders, one byte written back to 0x00. -/
theorem witness_CanonicalMemoryIsUnique :
    (cellsOf [(0x0005, 0x01), (0xFFFF, 0x02), (0x0007, 0x09), (0x0007, 0x00)]).wf ∧
    (cellsOf [(0xFFFF, 0x02), (0x0005, 0x01)]).wf ∧
    ∀ a : Addr, (cellsOf [(0x0005, 0x01), (0xFFFF, 0x02), (0x0007, 0x09), (0x0007, 0x00)]).read a =
      (cellsOf [(0xFFFF, 0x02), (0x0005, 0x01)]).read a := ⟨by decide +kernel, by decide +kernel, fun _ => rfl⟩

/-- Meets OnlyWritersChangeARegister: a memory shift leaves A, an Accumulator shift leaves X. -/
theorem witness_OnlyWritersChangeARegister : (∃ t, exec (.aslZp 0x10) State.reset = .next t) ∧
    writesReg (.aslZp 0x10) .A = false ∧ (∃ t, exec .aslAcc State.reset = .next t) ∧ writesReg .aslAcc .X = false :=
  ⟨⟨_, rfl⟩, by decide, ⟨_, rfl⟩, by decide⟩

/-- Meets OnlyWritersChangeAFlag: BRK leaves B and D, a compare leaves V. -/
theorem witness_OnlyWritersChangeAFlag : (∃ t, exec .brk State.reset = .next t) ∧ Instr.brk.mnemonic ∉ Flag.B.writers ∧
    (∃ t, exec (.cmpImm 0x01) State.reset = .next t) ∧ (Instr.cmpImm 0x01).mnemonic ∉ Flag.V.writers :=
  ⟨⟨_, rfl⟩, by decide, ⟨_, rfl⟩, by decide⟩

/-- Meets OnlyStoresAndPushesChangeMemory: a load, an Accumulator shift, and a push with an address on each side of page 1. -/
theorem witness_OnlyStoresAndPushesChangeMemory : (∃ t, exec (.ldaImm 0x01) State.reset = .next t) ∧
    (Instr.ldaImm 0x01).mnemonic ∉ storeMnemonics ∧ (Instr.ldaImm 0x01).mnemonic ∉ pushMnemonics ∧
    (∃ t, exec .rolAcc State.reset = .next t) ∧ Instr.rolAcc.mode = .accumulator ∧ Instr.rolAcc.mnemonic ∉ pushMnemonics ∧
    (∃ t, exec .php State.reset = .next t) ∧ Instr.php.mnemonic ∈ pushMnemonics ∧
    (0x00FF : Addr).toNat < 256 ∧ 512 ≤ (0x0200 : Addr).toNat :=
  ⟨⟨_, rfl⟩, by decide, by decide, ⟨_, rfl⟩, by decide, by decide, ⟨_, rfl⟩, by decide, by decide, by decide⟩

/-- Meets GenericAdvanceOutsideControlTransfer at the top of memory. -/
theorem witness_GenericAdvanceOutsideControlTransfer :
    (∃ t, exec (.ldaAbs 0x1234) { State.reset with pc := 0xFFFE } = .next t) ∧
    (Instr.ldaAbs 0x1234).mnemonic ∉ controlMnemonics := ⟨⟨_, rfl⟩, by decide⟩

/-- Meets UnusedRegisterPassesThrough: a next state and a fault. -/
theorem witness_UnusedRegisterPassesThrough : usesReg (.ldaZpX 0x10) .Y = false ∧
    (∃ t, exec (.ldaZpX 0x10) State.reset = .next t) ∧ usesReg (.adcImm 0x01) .SP = false ∧
    ∃ f, exec (.adcImm 0x01) { State.reset with p := 0x2C } = .fault f := ⟨by decide, ⟨_, rfl⟩, by decide, _, rfl⟩

/-- Meets both clauses of AdcAddsWithCarry and of SbcSubtractsWithBorrow. -/
theorem witness_AdcAddsWithCarry_SbcSubtractsWithBorrow : State.reset.flag .D = false ∧
    ({ State.reset with p := 0x2C } : State).flag .D = true := by decide

/-- Meets OverflowIsSignedOutOfRange: D = 0, at the two ends of the signed range. -/
theorem witness_OverflowIsSignedOutOfRange : ({ State.reset with a := 0x7F, p := 0x25 } : State).flag .D = false ∧
    ({ State.reset with a := 0x80 } : State).flag .D = false ∧ (0x7F : Byte).toInt = 127 ∧ (0x80 : Byte).toInt = -128 := by decide

/-- Meets both clauses of BranchesGoToTheSignedOffset, at PC 0xFFFE and at the two ends of the offset's range. -/
theorem witness_BranchesGoToTheSignedOffset : State.reset.flag .Z = false ∧
    ({ State.reset with p := 0x26, pc := 0xFFFE } : State).flag .Z = true ∧ (0x80 : Byte).toInt = -128 ∧
    (0x7F : Byte).toInt = 127 := by decide

/-- Meets the clauses of JmpSetsPC: a pointer whose low byte is not 0xFF, and, at one whose low byte is, whichever value the
parameter has. The two values give what test_V306_V307_jmp_indirect says. -/
theorem witness_JmpSetsPC : (0x10FE : Addr).toNat % 256 ≠ 255 ∧ (0x1100 : Addr).toNat % 256 ≠ 255 ∧
    (0xFFFF : Addr).toNat % 256 = 255 ∧ (Config.jmpIndWrap = false ∨ Config.jmpIndWrap = true) :=
  ⟨by decide, by decide, by decide, by cases Config.jmpIndWrap <;> simp⟩

/-- Meets the clauses of PhpPushesAndPlpPullsStatus and of PullsUndoPushes: the parameter has one value or the other, bit 5 of P
is 1, and a bit other than 5 is below 8. -/
theorem witness_PhpPushesAndPlpPullsStatus_PullsUndoPushes : (Config.phpB = .verbatim ∨ Config.phpB = .set) ∧
    State.reset.p.getLsbD 5 = true ∧ (7 < 8 ∧ 7 ≠ 5) ∧ (0 < 8 ∧ 0 ≠ 5) :=
  ⟨by cases Config.phpB <;> simp, by decide, by decide, by decide⟩

/-- Meets RtiRestoresStatusAndPC and the register clause of PLP: a bit other than 5, a register other than SP. -/
theorem witness_RtiRestoresStatusAndPC : (4 < 8 ∧ 4 ≠ 5) ∧ Reg.A ≠ Reg.SP := by decide

/-- Meets PointerParametersMatterOnlyAtFF in both addressing modes and for the Indirect pointer (V311, V315, V306). -/
theorem witness_PointerParametersMatterOnlyAtFF :
    eaWith true (.xIndexedIndirect 0xFF) (start 0x0600 [] [(0x0100, 0x30)]) ≠
      eaWith false (.xIndexedIndirect 0xFF) (start 0x0600 [] [(0x0100, 0x30)]) ∧
    eaWith true (.indirectYIndexed 0xFF) (start 0x0600 [] [(0x0100, 0x30)]) ≠
      eaWith false (.indirectYIndexed 0xFF) (start 0x0600 [] [(0x0100, 0x30)]) ∧
    indirectWith true (cellsOf [(0x1100, 0x12)]) 0x10FF ≠ indirectWith false (cellsOf [(0x1100, 0x12)]) 0x10FF := by
  decide +kernel

/-- Meets WordAccessIsLittleEndianAndWraps: a third byte beside a word at 0xFFFF. -/
theorem witness_WordAccessIsLittleEndianAndWraps : (0x0001 : Addr) ≠ 0xFFFF ∧ (0x0001 : Addr) ≠ 0xFFFF + 1 := by decide

/-- Meets both clauses of CopyBytesChecksThenCopies at the boundary: one byte too many, and exactly fitting. -/
theorem witness_CopyBytesChecksThenCopies : 65536 < (0xFFFF : Addr).toNat + [(0x01 : Byte), 0x02].length ∧
    (0xFFFE : Addr).toNat + [(0x01 : Byte), 0x02].length ≤ 65536 ∧ [(0x01 : Byte), 0x02][1]? = some 0x02 ∧
    (0xFFFD : Addr).toNat < (0xFFFE : Addr).toNat ∧ (0x0000 : Addr).toNat + [(0x01 : Byte)].length ≤ (0x0001 : Addr).toNat := by
  decide

/-- Meets both clauses of LoadProgramLoadsAndResets at the boundary (V1503, V1504), and an address outside the program. -/
theorem witness_LoadProgramLoadsAndResets : 65536 < (0xFFF0 : Addr).toNat + (List.replicate 17 (0xEA : Byte)).length ∧
    (0xFFF0 : Addr).toNat + (List.replicate 16 (0xEA : Byte)).length ≤ 65536 ∧
    (List.replicate 16 (0xEA : Byte))[15]? = some 0xEA ∧ (0xFFEF : Addr).toNat < (0xFFF0 : Addr).toNat ∧
    (0x0600 : Addr).toNat + [(0xEA : Byte)].length ≤ (0xFFFC : Addr).toNat := by decide

/-- Meets CountedRunStopsAtFirstFault: a step that answers a next state, a run that faults at its second step, and a state whose
step faults (V1514). -/
theorem witness_CountedRunStopsAtFirstFault :
    step (start 0x0600 [0xEA, 0x02] []) = .next { start 0x0600 [0xEA, 0x02] [] with pc := 0x0601 } ∧
    processInstructions 2 (start 0x0600 [0xEA, 0x02] []) =
      ({ start 0x0600 [0xEA, 0x02] [] with pc := 0x0601 }, .fault (.unknownOpcode 0x0601 0x02)) ∧
    step { start 0x0600 [0xEA, 0x02] [] with pc := 0x0601 } = .fault (.unknownOpcode 0x0601 0x02) := ⟨by rfl, by rfl, by rfl⟩

/-- Meets FailedTransactionLeavesTheState: a load and a step that fail. -/
theorem witness_FailedTransactionLeavesTheState :
    (∀ n, Transaction.loadProgram [0x01, 0x02] 0xFFFF 0x0600 ≠ .processInstructions n) ∧
    (transact (.loadProgram [0x01, 0x02] 0xFFFF 0x0600) State.reset).2 ≠ .ok ∧
    (transact .processInstruction (start 0x0600 [0x02] [])).2 ≠ .ok := ⟨(fun _ h => by cases h), by decide, by decide⟩

/-- Meets AssembledLineIsOneInstruction: a blank line, an instruction alone and one with an operand. -/
theorem witness_AssembledLineIsOneInstruction : assembleTokens [] = .ok [] ∧ assembleTokens [['r', 't', 's']] = .ok [0x60] ∧
    assembleTokens [['L', 'D', 'A'], ['$', 'F', 'f', ',', 'x']] = .ok [0xB5, 0xFF] := by refine ⟨?_, ?_, ?_⟩ <;> rfl

end Sys2Proof.Tests
end

section
/-! PROOFS. What `exec` runs, by mnemonic and mode: one shared meaning for each of the 56 mnemonics (two for JMP). Statements
over every instruction are proved by cases on `Runs`, not on the 151 constructors of `Instr`. -/

namespace Sys2Proof.Machine

/-- `Runs mn f md`: an instruction of mnemonic `mn` and mode `md` means `f`. The opcode argument of ADC and SBC, which only their
fault shows, may be any byte. -/
inductive Runs : Mnemonic → (State → Answer) → Mode → Prop
  | lda (o : Operand) : Runs .LDA (loadReg .A o) o.mode
  | ldx (o : Operand) : Runs .LDX (loadReg .X o) o.mode
  | ldy (o : Operand) : Runs .LDY (loadReg .Y o) o.mode
  | sta (m : MemMode) : Runs .STA (storeReg .A m) m.mode
  | stx (m : MemMode) : Runs .STX (storeReg .X m) m.mode
  | sty (m : MemMode) : Runs .STY (storeReg .Y m) m.mode
  | tax : Runs .TAX (transferReg .X .A) .implicit
  | tay : Runs .TAY (transferReg .Y .A) .implicit
  | txa : Runs .TXA (transferReg .A .X) .implicit
  | tya : Runs .TYA (transferReg .A .Y) .implicit
  | tsx : Runs .TSX (transferReg .X .SP) .implicit
  | txs : Runs .TXS execTxs .implicit
  | adc (op : Byte) (o : Operand) : Runs .ADC (Machine.adc op o) o.mode
  | sbc (op : Byte) (o : Operand) : Runs .SBC (Machine.sbc op o) o.mode
  | cmp (o : Operand) : Runs .CMP (compareReg .A o) o.mode
  | cpx (o : Operand) : Runs .CPX (compareReg .X o) o.mode
  | cpy (o : Operand) : Runs .CPY (compareReg .Y o) o.mode
  | and (o : Operand) : Runs .AND (logicA (· &&& ·) o) o.mode
  | ora (o : Operand) : Runs .ORA (logicA (· ||| ·) o) o.mode
  | eor (o : Operand) : Runs .EOR (logicA (· ^^^ ·) o) o.mode
  | bit (o : Operand) : Runs .BIT (bitTest o) o.mode
  | asl (tgt : Target) : Runs .ASL (shiftTarget aslResult leftCarry tgt) tgt.mode
  | lsr (tgt : Target) : Runs .LSR (shiftTarget lsrResult rightCarry tgt) tgt.mode
  | rol (tgt : Target) : Runs .ROL (shiftTarget rolResult leftCarry tgt) tgt.mode
  | ror (tgt : Target) : Runs .ROR (shiftTarget rorResult rightCarry tgt) tgt.mode
  | inc (m : MemMode) : Runs .INC (stepMem (· + 1) m) m.mode
  | dec (m : MemMode) : Runs .DEC (stepMem (· - 1) m) m.mode
  | inx : Runs .INX (stepReg (· + 1) .X) .implicit
  | iny : Runs .INY (stepReg (· + 1) .Y) .implicit
  | dex : Runs .DEX (stepReg (· - 1) .X) .implicit
  | dey : Runs .DEY (stepReg (· - 1) .Y) .implicit
  | bpl (off : Byte) : Runs .BPL (branchIf .N false off) .relative
  | bmi (off : Byte) : Runs .BMI (branchIf .N true off) .relative
  | bvc (off : Byte) : Runs .BVC (branchIf .V false off) .relative
  | bvs (off : Byte) : Runs .BVS (branchIf .V true off) .relative
  | bcc (off : Byte) : Runs .BCC (branchIf .C false off) .relative
  | bcs (off : Byte) : Runs .BCS (branchIf .C true off) .relative
  | bne (off : Byte) : Runs .BNE (branchIf .Z false off) .relative
  | beq (off : Byte) : Runs .BEQ (branchIf .Z true off) .relative
  | jmpAbs (w : Addr) : Runs .JMP (execJmpAbs w) .absolute
  | jmpInd (w : Addr) : Runs .JMP (execJmpInd w) .indirect
  | jsr (w : Addr) : Runs .JSR (execJsrAbs w) .absolute
  | rts : Runs .RTS execRts .implicit
  | pha : Runs .PHA execPha .implicit
  | php : Runs .PHP execPhp .implicit
  | pla : Runs .PLA execPla .implicit
  | plp : Runs .PLP execPlp .implicit
  | brk : Runs .BRK execBrk .implicit
  | rti : Runs .RTI execRti .implicit
  | clc : Runs .CLC (writeFlag .C false) .implicit
  | sec : Runs .SEC (writeFlag .C true) .implicit
  | cli : Runs .CLI (writeFlag .I false) .implicit
  | sei : Runs .SEI (writeFlag .I true) .implicit
  | cld : Runs .CLD (writeFlag .D false) .implicit
  | sed : Runs .SED (writeFlag .D true) .implicit
  | clv : Runs .CLV (writeFlag .V false) .implicit
  | nop : Runs .NOP execNop .implicit

/-- The dispatch (R407): every instruction runs the meaning of its mnemonic and mode. -/
theorem exec_runs (i : Instr) : Runs i.mnemonic (exec i) i.mode := by
  cases i with
  | ldaImm | ldaZp | ldaZpX | ldaAbs | ldaAbsX | ldaAbsY | ldaIndX | ldaIndY => exact .lda _
  | ldxImm | ldxZp | ldxZpY | ldxAbs | ldxAbsY => exact .ldx _
  | ldyImm | ldyZp | ldyZpX | ldyAbs | ldyAbsX => exact .ldy _
  | staZp | staZpX | staAbs | staAbsX | staAbsY | staIndX | staIndY => exact .sta _
  | stxZp | stxZpY | stxAbs => exact .stx _
  | styZp | styZpX | styAbs => exact .sty _
  | tax => exact .tax
  | tay => exact .tay
  | txa => exact .txa
  | tya => exact .tya
  | tsx => exact .tsx
  | txs => exact .txs
  | adcImm | adcZp | adcZpX | adcAbs | adcAbsX | adcAbsY | adcIndX | adcIndY => exact .adc _ _
  | sbcImm | sbcZp | sbcZpX | sbcAbs | sbcAbsX | sbcAbsY | sbcIndX | sbcIndY => exact .sbc _ _
  | cmpImm | cmpZp | cmpZpX | cmpAbs | cmpAbsX | cmpAbsY | cmpIndX | cmpIndY => exact .cmp _
  | cpxImm | cpxZp | cpxAbs => exact .cpx _
  | cpyImm | cpyZp | cpyAbs => exact .cpy _
  | andImm | andZp | andZpX | andAbs | andAbsX | andAbsY | andIndX | andIndY => exact .and _
  | oraImm | oraZp | oraZpX | oraAbs | oraAbsX | oraAbsY | oraIndX | oraIndY => exact .ora _
  | eorImm | eorZp | eorZpX | eorAbs | eorAbsX | eorAbsY | eorIndX | eorIndY => exact .eor _
  | bitZp | bitAbs => exact .bit _
  | aslAcc => exact .asl .accumulator
  | aslZp | aslZpX | aslAbs | aslAbsX => exact .asl (.memory _)
  | lsrAcc => exact .lsr .accumulator
  | lsrZp | lsrZpX | lsrAbs | lsrAbsX => exact .lsr (.memory _)
  | rolAcc => exact .rol .accumulator
  | rolZp | rolZpX | rolAbs | rolAbsX => exact .rol (.memory _)
  | rorAcc => exact .ror .accumulator
  | rorZp | rorZpX | rorAbs | rorAbsX => exact .ror (.memory _)
  | incZp | incZpX | incAbs | incAbsX => exact .inc _
  | decZp | decZpX | decAbs | decAbsX => exact .dec _
  | inx => exact .inx
  | iny => exact .iny
  | dex => exact .dex
  | dey => exact .dey
  | bpl off => exact .bpl off
  | bmi off => exact .bmi off
  | bvc off => exact .bvc off
  | bvs off => exact .bvs off
  | bcc off => exact .bcc off
  | bcs off => exact .bcs off
  | bne off => exact .bne off
  | beq off => exact .beq off
  | jmpAbs w => exact .jmpAbs w
  | jmpInd w => exact .jmpInd w
  | jsrAbs w => exact .jsr w
  | rts => exact .rts
  | pha => exact .pha
  | php => exact .php
  | pla => exact .pla
  | plp => exact .plp
  | brk => exact .brk
  | rti => exact .rti
  | clc => exact .clc
  | sec => exact .sec
  | cli => exact .cli
  | sei => exact .sei
  | cld => exact .cld
  | sed => exact .sed
  | clv => exact .clv
  | nop => exact .nop

end Sys2Proof.Machine
end

section
/-! PROOFS. What an instruction leaves unchanged, by the writer lists of spec/10_state.md R101 to R104 and R108 to R114. -/

namespace Sys2Proof.Machine

/-- `writesReg` of an instruction's mnemonic and mode (R101 to R104). -/
def Reg.writtenBy (r : Reg) (mn : Mnemonic) (md : Mode) : Bool := r.writers.contains mn || (r == .A && md == .accumulator)

theorem writesReg_eq_writtenBy (i : Instr) (r : Reg) : writesReg i r = r.writtenBy i.mnemonic i.mode := rfl

/-- From `s` to `t`, an instruction of mnemonic `mn` and mode `md` wrote no register and no flag but those whose writer lists name
it, and cleared no bit 5 of P (R107). -/
structure WritesAsListed (mn : Mnemonic) (md : Mode) (s t : State) : Prop where
  reg_eq : ∀ r : Reg, r.writtenBy mn md = false → t.reg r = s.reg r
  flag_eq : ∀ g : Flag, mn ∉ g.writers → t.flag g = s.flag g
  bit_five : s.p.getLsbD 5 = true → t.p.getLsbD 5 = true

/-- A frame whose registers and flags the instruction is listed as writing. -/
theorem Keeps.writesAsListed {mn : Mnemonic} {md : Mode} {s t : State} {rs : List Reg} {fs : List Flag} {as : List Addr}
    (h : Keeps s t rs fs as) (hrs : ∀ r ∈ rs, r.writtenBy mn md = true) (hfs : ∀ g ∈ fs, mn ∈ g.writers) :
    WritesAsListed mn md s t := by
  obtain ⟨hreg, hbit, -⟩ := h
  refine ⟨fun r hr => hreg r fun hm => ?_, fun g hg => hbit g.bit fun f hf he => ?_, fun h5 => ?_⟩
  · rw [hrs r hm] at hr; cases hr
  · exact hg (Flag.bit_inj.mp he ▸ hfs f hf)
  · rw [hbit 5 fun f _ => f.bit_ne_five.symm, h5]

/-- A register write changes that register alone. -/
theorem keeps_setReg (s : State) (r : Reg) (v : Byte) : Keeps s (s.setReg r v) [r] [] [] :=
  ⟨fun q hq => by rw [State.setReg_reg, if_neg (List.mem_singleton.not.mp hq)], fun _ _ => by simp, fun _ _ => by simp⟩

/-- `SetNZ` changes Z and N alone (R115). -/
theorem keeps_setNZ (s : State) (v : Byte) : Keeps s (s.setNZ v) [] [.Z, .N] [] := by
  refine ⟨fun q _ => State.setNZ_reg s v q, fun k hk => ?_, fun _ _ => rfl⟩
  have h1 : k ≠ 1 := hk .Z (by simp)
  have h7 : k ≠ 7 := hk .N (by simp)
  simp [getLsbD_putNZ, h1, h7]

theorem keeps_push (s : State) (v : Byte) : Keeps s (s.push v) [.SP] [] [stackAddr s.sp] := by
  obtain ⟨-, -, -, hk⟩ := push_effect s v
  exact hk

theorem keeps_pull (s : State) : Keeps s s.pull [.SP] [] [] := by
  obtain ⟨-, -, -, hk⟩ := pull_effect s
  exact hk

theorem keeps_addToA (m : Byte) (s : State) : Keeps s (addToA m s) [.A] [.C, .V, .N, .Z] [] := by
  obtain ⟨-, -, -, -, -, hk⟩ := addToA_effect m s
  exact hk

/-- PLP and RTI are listed as writing every flag; they write P whole, which sets bit 5 (R107). -/
theorem writesAsListed_of_setP {mn : Mnemonic} {md : Mode} {s t : State} {v : Byte}
    (hreg : ∀ r : Reg, r ≠ .SP → t.reg r = s.reg r) (hp : t.p = v ||| unusedBit)
    (hsp : Reg.SP.writtenBy mn md = true) (hfs : ∀ g : Flag, mn ∈ g.writers) : WritesAsListed mn md s t := by
  refine ⟨fun r hr => hreg r ?_, fun g hg => absurd (hfs g) hg, fun _ => ?_⟩
  · rintro rfl
    rw [hsp] at hr; cases hr
  · rw [hp]; exact getLsbD_or_unusedBit v

/-- Every meaning writes what the lists of its mnemonic and mode allow. -/
theorem Runs.writesAsListed {mn : Mnemonic} {md : Mode} {f : State → Answer} {s t : State} (hr : Runs mn f md)
    (h : f s = .next t) : WritesAsListed mn md s t := by
  cases hr with
  | lda o | ldx o | ldy o =>
    obtain ⟨-, -, -, hk⟩ := loadReg_next h
    exact hk.writesAsListed (by simp [Reg.writtenBy, Reg.writers]) (by decide)
  | sta m | stx m | sty m =>
    obtain ⟨-, -, hk⟩ := storeReg_next h
    exact hk.writesAsListed (by simp) (by simp)
  | tax | tay | txa | tya | tsx =>
    obtain ⟨-, -, -, hk⟩ := transferReg_next h
    exact hk.writesAsListed (by decide) (by decide)
  | txs =>
    injection h with h; subst h
    exact (Keeps.advance (keeps_setReg s .SP s.x) _).writesAsListed (by decide) (by simp)
  | adc op o =>
    obtain ⟨-, rfl⟩ := adc_next h
    exact (Keeps.advance (keeps_addToA _ s) _).writesAsListed (by simp [Reg.writtenBy, Reg.writers]) (by decide)
  | sbc op o =>
    obtain ⟨-, rfl⟩ := sbc_next h
    exact (Keeps.advance (keeps_addToA _ s) _).writesAsListed (by simp [Reg.writtenBy, Reg.writers]) (by decide)
  | cmp o | cpx o | cpy o =>
    obtain ⟨-, -, -, hk⟩ := compareReg_next h
    exact hk.writesAsListed (by simp) (by decide)
  | and o | ora o | eor o =>
    obtain ⟨-, -, -, hk⟩ := logicA_next h
    exact hk.writesAsListed (by simp [Reg.writtenBy, Reg.writers]) (by decide)
  | bit o =>
    obtain ⟨-, -, -, -, hk⟩ := bitTest_next h
    exact hk.writesAsListed (by simp) (by decide)
  | asl tgt | lsr tgt | rol tgt | ror tgt =>
    obtain ⟨-, -, -, -, hk⟩ := shiftTarget_next h
    exact hk.writesAsListed (by cases tgt <;> simp [Target.regs, Target.mode, Target.operand, Operand.mode, Reg.writtenBy])
      (by decide)
  | inc m | dec m =>
    obtain ⟨-, -, -, hk⟩ := stepMem_next h
    exact hk.writesAsListed (by simp) (by decide)
  | inx | iny | dex | dey =>
    obtain ⟨-, -, -, hk⟩ := stepReg_next h
    exact hk.writesAsListed (by decide) (by decide)
  | bpl off | bmi off | bvc off | bvs off | bcc off | bcs off | bne off | beq off =>
    obtain rfl := branchIf_next h
    exact (keeps_setPC s _).writesAsListed (by simp) (by simp)
  | jmpAbs w | jmpInd w =>
    injection h with h; subst h
    exact (keeps_setPC s _).writesAsListed (by simp) (by simp)
  | jsr w =>
    injection h with h; subst h
    obtain ⟨-, -, -, -, hk⟩ := pushWord_effect s (nextPC s.pc .absolute - 1)
    exact (hk.trans (keeps_setPC _ w)).writesAsListed (by decide) (by simp)
  | rts =>
    injection h with h; subst h
    exact (((keeps_pull s).trans (keeps_pull s.pull)).trans (keeps_setPC _ _)).writesAsListed (by decide) (by simp)
  | pha | php =>
    injection h with h; subst h
    exact ((keeps_push s _).advance _).writesAsListed (by decide) (by simp)
  | pla =>
    injection h with h; subst h
    exact ((((keeps_pull s).trans (keeps_setReg _ .A _)).trans (keeps_setNZ _ _)).advance _).writesAsListed
      (by decide) (by decide)
  | plp =>
    injection h with h; subst h
    refine writesAsListed_of_setP (v := s.pulled) (fun r hr => ?_) rfl (by decide) (fun g => by cases g <;> decide)
    rw [State.advance_reg, State.setP_reg, State.pull_reg, if_neg hr]
  | brk =>
    injection h with h; subst h
    obtain ⟨-, -, -, -, -, -, hk⟩ := enterBreak_effect s (s.pc + 2)
    exact hk.writesAsListed (by decide) (by decide)
  | rti =>
    injection h with h; subst h
    obtain ⟨-, hp, -, -, hreg⟩ := returnFromBreak_effect s
    exact writesAsListed_of_setP hreg hp (by decide) (fun g => by cases g <;> decide)
  | clc | sec | cli | sei | cld | sed | clv =>
    obtain ⟨-, -, hk⟩ := writeFlag_next h
    exact hk.writesAsListed (by simp) (by decide)
  | nop =>
    injection h with h; subst h
    exact (keeps_setPC s _).writesAsListed (by simp) (by simp)

/-- Every instruction writes what the lists allow (R101 to R104, R107 to R114). -/
theorem exec_writesAsListed {i : Instr} {s t : State} (h : exec i s = .next t) :
    WritesAsListed i.mnemonic i.mode s t := (exec_runs i).writesAsListed h

/-- Settles O16: an instruction whose register is not listed as written is framed by the meaning it runs. -/
theorem onlyWritersChangeARegister : Obligations.OnlyWritersChangeARegister := by
  intro i s t r h hw
  exact (exec_writesAsListed h).reg_eq r (writesReg_eq_writtenBy i r ▸ hw)

/-- Settles O17: the same frame, read for the flags. -/
theorem onlyWritersChangeAFlag : Obligations.OnlyWritersChangeAFlag := by
  intro i s t f h hw
  exact (exec_writesAsListed h).flag_eq f hw

end Sys2Proof.Machine
end

section
/-! PROOFS. Every step and every transaction of the host keeps the invariant, so every reachable state has it. -/

namespace Sys2Proof.Machine

/-- Every meaning keeps the invariant, since the operations it is made of do. -/
theorem Runs.inv {mn : Mnemonic} {md : Mode} {f : State → Answer} {s t : State} (hr : Runs mn f md) (hi : s.Inv)
    (h : f s = .next t) : t.Inv := by
  cases hr with
  | lda o | ldx o | ldy o | tax | tay | txa | tya | tsx | and o | ora o | eor o | inx | iny | dex | dey =>
    injection h with h; subst h
    exact inv_advance _ (inv_setNZ _ (inv_setReg _ _ hi))
  | sta m | stx m | sty m =>
    injection h with h; subst h
    exact inv_advance _ (inv_writeTarget _ _ hi)
  | txs =>
    injection h with h; subst h
    exact inv_advance _ (inv_setReg .SP _ hi)
  | adc op o =>
    obtain ⟨-, rfl⟩ := adc_next h
    exact inv_advance _ (inv_addToA _ hi)
  | sbc op o =>
    obtain ⟨-, rfl⟩ := sbc_next h
    exact inv_advance _ (inv_addToA _ hi)
  | cmp o | cpx o | cpy o =>
    injection h with h; subst h
    exact inv_advance _ (inv_setNZ _ (inv_setFlag _ _ hi))
  | bit o =>
    injection h with h; subst h
    exact inv_advance _ (inv_putBitTest _ _ hi)
  | asl tgt | lsr tgt | rol tgt | ror tgt =>
    injection h with h; subst h
    exact inv_advance _ (inv_setNZ _ (inv_setFlag _ _ (inv_writeTarget _ _ hi)))
  | inc m | dec m =>
    injection h with h; subst h
    exact inv_advance _ (inv_setNZ _ (inv_writeTarget _ _ hi))
  | bpl off | bmi off | bvc off | bvs off | bcc off | bcs off | bne off | beq off | jmpAbs w | jmpInd w =>
    injection h with h; subst h
    exact inv_setPC _ hi
  | jsr w =>
    injection h with h; subst h
    exact inv_setPC _ (inv_pushWord _ hi)
  | rts =>
    injection h with h; subst h
    exact inv_setPC _ (inv_pull (inv_pull hi))
  | pha | php =>
    injection h with h; subst h
    exact inv_advance _ (inv_push _ hi)
  | pla =>
    injection h with h; subst h
    exact inv_advance _ (inv_setNZ _ (inv_setReg .A _ (inv_pull hi)))
  | plp =>
    injection h with h; subst h
    exact inv_advance _ (inv_setP _ (inv_pull hi))
  | brk =>
    injection h with h; subst h
    exact inv_enterBreak _ hi
  | rti =>
    injection h with h; subst h
    exact inv_returnFromBreak hi
  | clc | sec | cli | sei | cld | sed | clv =>
    injection h with h; subst h
    exact inv_advance _ (inv_setFlag _ _ hi)
  | nop =>
    injection h with h; subst h
    exact inv_advance _ hi

theorem inv_step {s t : State} (hi : s.Inv) (h : step s = .next t) : t.Inv := by
  rcases step_cases s with ⟨i, -, he⟩ | ⟨-, he⟩
  · exact (exec_runs i).inv hi (he ▸ h)
  · rw [he] at h; cases h

/-- A settled answer is the next state or the state before (R1406). -/
theorem inv_settle {s : State} {a : Answer} (hi : s.Inv) (ha : ∀ t, a = .next t → t.Inv) : (settle s a).1.Inv := by
  cases a with
  | next t => exact ha t rfl
  | fault f => exact hi
  | refused r => exact hi

theorem inv_copyBytes {s t : State} {origin : Addr} {bytes : List Byte} (hi : s.Inv)
    (h : copyBytes origin bytes s = .next t) : t.Inv := by
  unfold copyBytes at h
  split at h
  · injection h with h; subst h
    exact ⟨Memory.wf_writeBytes _ _ hi.1, hi.2⟩
  · cases h

theorem inv_loadProgram {s t : State} {bytes : List Byte} {origin entryPoint : Addr} (hi : s.Inv)
    (h : loadProgram bytes origin entryPoint s = .next t) : t.Inv := by
  unfold loadProgram at h
  split at h
  · injection h with h; subst h
    exact inv_resetBlock ⟨Memory.wf_writeBytes _ _ (Memory.wf_writeWord _ _ hi.1), hi.2⟩
  · cases h

theorem inv_processInstructions {s : State} (count : Nat) (hi : s.Inv) : (processInstructions count s).1.Inv := by
  induction count generalizing s with
  | zero => exact hi
  | succ k ih =>
    cases hs : step s with
    | next t => simpa only [processInstructions, hs] using ih (inv_step hi hs)
    | fault f => simpa only [processInstructions, hs] using hi
    | refused r => simpa only [processInstructions, hs] using hi

theorem inv_transact {s : State} (t : Transaction) (hi : s.Inv) : (transact t s).1.Inv := by
  cases t with
  | reset => exact inv_resetBlock hi
  | loadProgram bytes origin entryPoint => exact inv_settle hi fun _ => inv_loadProgram hi
  | processInstruction => exact inv_settle hi fun _ => inv_step hi
  | processInstructions count => exact inv_processInstructions count hi
  | writeU8 a v => exact inv_writeByte a v hi
  | writeU16 a v => exact ⟨Memory.wf_writeWord a v hi.1, hi.2⟩
  | copyBytes origin bytes => exact inv_settle hi fun _ => inv_copyBytes hi

/-- The invariant holds at construction and every transaction keeps it. -/
theorem Reachable.inv {s : State} (h : Reachable s) : s.Inv := by
  induction h with
  | construct a x y sp pc p => exact inv_construct a x y sp pc p
  | transact t s _ ih => exact inv_transact t ih

/-- Settles O11: a step runs one of the shared meanings, each of which keeps the invariant. -/
theorem stepKeepsTheInvariant : Obligations.StepKeepsTheInvariant :=
  fun _ _ hi h => inv_step hi h

/-- Settles O13: the reachable states have the invariant (R107), a whole write of P forces the bit, and no instruction clears it,
whatever memory holds. -/
theorem unusedBitIsOneInReachableStates : Obligations.UnusedBitIsOneInReachableStates := by
  refine ⟨fun s hs => ?_, fun s v => getLsbD_or_unusedBit v, fun i s t h => (exec_writesAsListed h).bit_five⟩
  obtain ⟨-, hbit⟩ := hs.inv
  exact hbit

end Sys2Proof.Machine
end

section
/-! PROOFS. A register an instruction does not use passes through: each update of the state, and so each shared meaning, commutes
with a write of that register (spec/10_state.md R101 to R104). -/

namespace Sys2Proof.Machine

/-- `usesReg` of an instruction's mnemonic and mode (R101 to R104). -/
def Reg.usedBy (r : Reg) (mn : Mnemonic) (md : Mode) : Bool := r.mnemonics.contains mn || r.modes.contains md

theorem usesReg_eq_usedBy (i : Instr) (r : Reg) : usesReg i r = r.usedBy i.mnemonic i.mode := rfl

theorem Reg.usedBy_eq_false {r : Reg} {mn : Mnemonic} {md : Mode} :
    r.usedBy mn md = false ↔ mn ∉ r.mnemonics ∧ md ∉ r.modes := by
  simp [Reg.usedBy]

/-- Write a register of the next state an answer holds, if it holds one. -/
def setRegOfNext (r : Reg) (v : Byte) : Answer → Answer
  | .next t => .next (t.setReg r v)
  | .fault f => .fault f
  | .refused x => .refused x

@[simp] theorem setRegOfNext_next (r : Reg) (v : Byte) (t : State) : setRegOfNext r v (.next t) = .next (t.setReg r v) := rfl
@[simp] theorem setRegOfNext_fault (r : Reg) (v : Byte) (f : Fault) : setRegOfNext r v (.fault f) = .fault f := rfl

section Commute

variable (s : State) (r : Reg) (v : Byte)

@[simp] theorem State.setNZ_setReg (b : Byte) : (s.setReg r v).setNZ b = (s.setNZ b).setReg r v := by cases r <;> rfl
@[simp] theorem State.setFlag_setReg (f : Flag) (b : Bool) : (s.setReg r v).setFlag f b = (s.setFlag f b).setReg r v := by
  cases r <;> rfl
@[simp] theorem State.setP_setReg (b : Byte) : (s.setReg r v).setP b = (s.setP b).setReg r v := by cases r <;> rfl
@[simp] theorem State.setPC_setReg (a : Addr) : (s.setReg r v).setPC a = (s.setPC a).setReg r v := by cases r <;> rfl
@[simp] theorem State.advance_setReg (m : Mode) : (s.setReg r v).advance m = (s.advance m).setReg r v := by cases r <;> rfl
@[simp] theorem State.writeByte_setReg (a : Addr) (b : Byte) :
    (s.setReg r v).writeByte a b = (s.writeByte a b).setReg r v := by cases r <;> rfl
@[simp] theorem State.flag_setReg (f : Flag) : (s.setReg r v).flag f = s.flag f := by simp [State.flag]

variable {s r v}

theorem State.reg_setReg_other {q : Reg} (hq : q ≠ r) : (s.setReg r v).reg q = s.reg q := by
  rw [State.setReg_reg, if_neg hq]

theorem State.a_setReg_other (hq : .A ≠ r) : (s.setReg r v).a = s.a := State.reg_setReg_other hq

theorem State.setReg_setReg_other {q : Reg} (b : Byte) (hq : q ≠ r) :
    (s.setReg r v).setReg q b = (s.setReg q b).setReg r v := by
  cases q <;> cases r <;> first | rfl | exact absurd rfl hq

/-- The Accumulator mode uses A (R101). -/
theorem a_ne_of_accumulator_notMem_modes (hm : .accumulator ∉ r.modes) : .A ≠ r := by
  rintro rfl; simp [Reg.modes] at hm

/-- A register the mode does not index by does not enter the effective address (R321 to R327). -/
theorem ea_setReg_of_notMem_modes {m : MemMode} (hm : m.mode ∉ r.modes) : ea m (s.setReg r v) = ea m s := by
  refine ea_setReg m s r v ?_ ?_
  · rintro rfl; simpa [Reg.modes] using hm
  · rintro rfl; simpa [Reg.modes] using hm

theorem readOperand_setReg {o : Operand} (hm : o.mode ∉ r.modes) : readOperand o (s.setReg r v) = readOperand o s := by
  cases o with
  | immediate b => rfl
  | accumulator => exact State.a_setReg_other (a_ne_of_accumulator_notMem_modes hm)
  | memory m => simp [readOperand, State.readByte, ea_setReg_of_notMem_modes hm]

theorem writeTarget_setReg {t : Target} (b : Byte) (hm : t.mode ∉ r.modes) :
    writeTarget t b (s.setReg r v) = (writeTarget t b s).setReg r v := by
  cases t with
  | accumulator => exact State.setReg_setReg_other b (a_ne_of_accumulator_notMem_modes hm)
  | memory m => rw [writeTarget_memory, writeTarget_memory, ea_setReg_of_notMem_modes hm, State.writeByte_setReg]

theorem loadReg_setReg {q : Reg} {o : Operand} (hq : q ≠ r) (hm : o.mode ∉ r.modes) :
    loadReg q o (s.setReg r v) = setRegOfNext r v (loadReg q o s) := by
  simp [loadReg, readOperand_setReg hm, State.setReg_setReg_other _ hq]

theorem storeReg_setReg {q : Reg} {m : MemMode} (hq : q ≠ r) (hm : m.mode ∉ r.modes) :
    storeReg q m (s.setReg r v) = setRegOfNext r v (storeReg q m s) := by
  simp [storeReg, State.reg_setReg_other hq, writeTarget_setReg (t := .memory m) _ hm]

theorem transferReg_setReg {d q : Reg} (hd : d ≠ r) (hq : q ≠ r) :
    transferReg d q (s.setReg r v) = setRegOfNext r v (transferReg d q s) := by
  simp [transferReg, State.reg_setReg_other hq, State.setReg_setReg_other _ hd]

theorem addToA_setReg (m : Byte) (hA : .A ≠ r) : addToA m (s.setReg r v) = (addToA m s).setReg r v := by
  simp [addToA, State.a_setReg_other hA, State.setReg_setReg_other _ hA]

theorem decimalGuard_setReg (op : Byte) (e : State) :
    decimalGuard op (s.setReg r v) (e.setReg r v) = setRegOfNext r v (decimalGuard op s e) := by
  cases hd : s.flag .D <;> simp [decimalGuard, hd]

theorem adc_setReg {op : Byte} {o : Operand} (hA : .A ≠ r) (hm : o.mode ∉ r.modes) :
    adc op o (s.setReg r v) = setRegOfNext r v (adc op o s) := by
  simp only [adc, readOperand_setReg hm, addToA_setReg _ hA, State.advance_setReg, decimalGuard_setReg]

theorem sbc_setReg {op : Byte} {o : Operand} (hA : .A ≠ r) (hm : o.mode ∉ r.modes) :
    sbc op o (s.setReg r v) = setRegOfNext r v (sbc op o s) := by
  simp only [sbc, readOperand_setReg hm, addToA_setReg _ hA, State.advance_setReg, decimalGuard_setReg]

theorem compareReg_setReg {q : Reg} {o : Operand} (hq : q ≠ r) (hm : o.mode ∉ r.modes) :
    compareReg q o (s.setReg r v) = setRegOfNext r v (compareReg q o s) := by
  simp [compareReg, readOperand_setReg hm, State.reg_setReg_other hq]

theorem logicA_setReg {f : Byte → Byte → Byte} {o : Operand} (hA : .A ≠ r) (hm : o.mode ∉ r.modes) :
    logicA f o (s.setReg r v) = setRegOfNext r v (logicA f o s) := by
  simp [logicA, readOperand_setReg hm, State.a_setReg_other hA, State.setReg_setReg_other _ hA]

theorem bitTest_setReg {o : Operand} (hA : .A ≠ r) (hm : o.mode ∉ r.modes) :
    bitTest o (s.setReg r v) = setRegOfNext r v (bitTest o s) := by
  simp only [bitTest, readOperand_setReg hm, State.a_setReg_other hA]
  cases r with
  | A => exact absurd rfl hA
  | X | Y | SP => rfl

theorem shiftTarget_setReg {f : Byte → Bool → Byte} {out : Byte → Bool} {t : Target} (hm : t.mode ∉ r.modes) :
    shiftTarget f out t (s.setReg r v) = setRegOfNext r v (shiftTarget f out t s) := by
  simp [shiftTarget, readOperand_setReg (o := t.operand) hm, writeTarget_setReg _ hm]

theorem stepMem_setReg {f : Byte → Byte} {m : MemMode} (hm : m.mode ∉ r.modes) :
    stepMem f m (s.setReg r v) = setRegOfNext r v (stepMem f m s) := by
  simp [stepMem, readOperand_setReg (o := .memory m) hm, writeTarget_setReg (t := .memory m) _ hm]

theorem stepReg_setReg {f : Byte → Byte} {q : Reg} (hq : q ≠ r) :
    stepReg f q (s.setReg r v) = setRegOfNext r v (stepReg f q s) := by
  simp [stepReg, State.reg_setReg_other hq, State.setReg_setReg_other _ hq]

theorem branchIf_setReg {f : Flag} {w : Bool} {off : Byte} :
    branchIf f w off (s.setReg r v) = setRegOfNext r v (branchIf f w off s) := by
  simp [branchIf, eaRelative]

theorem writeFlag_setReg {f : Flag} {b : Bool} : writeFlag f b (s.setReg r v) = setRegOfNext r v (writeFlag f b s) := by
  simp [writeFlag]

theorem push_setReg (b : Byte) (hsp : .SP ≠ r) : (s.setReg r v).push b = (s.push b).setReg r v := by
  cases r with
  | A | X | Y => rfl
  | SP => exact absurd rfl hsp

theorem pull_setReg (hsp : .SP ≠ r) : (s.setReg r v).pull = s.pull.setReg r v := by
  cases r with
  | A | X | Y => rfl
  | SP => exact absurd rfl hsp

theorem pulled_setReg (hsp : .SP ≠ r) : (s.setReg r v).pulled = s.pulled := by
  cases r with
  | A | X | Y => rfl
  | SP => exact absurd rfl hsp

theorem enterBreak_setReg (ret : Addr) (hsp : .SP ≠ r) : (s.setReg r v).enterBreak ret = (s.enterBreak ret).setReg r v := by
  simp [State.enterBreak, State.pushWord, push_setReg _ hsp, State.readWord]

theorem returnFromBreak_setReg (hsp : .SP ≠ r) : (s.setReg r v).returnFromBreak = s.returnFromBreak.setReg r v := by
  simp [State.returnFromBreak, State.pullWord, State.pulledWord, pull_setReg hsp, pulled_setReg hsp]

end Commute

/-- A meaning commutes with a write of a register its mnemonic and mode do not use. -/
theorem Runs.setReg {mn : Mnemonic} {md : Mode} {f : State → Answer} {r : Reg} (hr : Runs mn f md)
    (hu : r.usedBy mn md = false) (s : State) (v : Byte) : f (s.setReg r v) = setRegOfNext r v (f s) := by
  obtain ⟨hmn, hm⟩ := Reg.usedBy_eq_false.mp hu
  have hne : ∀ q : Reg, mn ∈ q.mnemonics → q ≠ r := fun q hq e => hmn (e ▸ hq)
  cases hr with
  | lda o | ldx o | ldy o => exact loadReg_setReg (hne _ (by decide)) hm
  | sta m | stx m | sty m => exact storeReg_setReg (hne _ (by decide)) hm
  | tax | tay | txa | tya | tsx => exact transferReg_setReg (hne _ (by decide)) (hne _ (by decide))
  | txs =>
    have hx : (s.setReg r v).x = s.x := State.reg_setReg_other (hne .X (by decide))
    simp [execTxs, hx, State.setReg_setReg_other _ (hne .SP (by decide))]
  | adc op o => exact adc_setReg (hne .A (by decide)) hm
  | sbc op o => exact sbc_setReg (hne .A (by decide)) hm
  | cmp o | cpx o | cpy o => exact compareReg_setReg (hne _ (by decide)) hm
  | and o | ora o | eor o => exact logicA_setReg (hne .A (by decide)) hm
  | bit o => exact bitTest_setReg (hne .A (by decide)) hm
  | asl tgt | lsr tgt | rol tgt | ror tgt => exact shiftTarget_setReg hm
  | inc m | dec m => exact stepMem_setReg hm
  | inx | iny | dex | dey => exact stepReg_setReg (hne _ (by decide))
  | bpl off | bmi off | bvc off | bvs off | bcc off | bcs off | bne off | beq off => exact branchIf_setReg
  | jmpAbs w => simp [execJmpAbs]
  | jmpInd w => simp [execJmpInd, eaIndirect]
  | jsr w => simp [execJsrAbs, State.pushWord, push_setReg _ (hne .SP (by decide))]
  | rts =>
    have hsp := hne .SP (by decide)
    simp [execRts, State.pullWord, State.pulledWord, pull_setReg hsp, pulled_setReg hsp]
  | pha => simp [execPha, State.a_setReg_other (hne .A (by decide)), push_setReg _ (hne .SP (by decide))]
  | php => simp [execPhp, push_setReg _ (hne .SP (by decide))]
  | pla =>
    have hsp := hne .SP (by decide)
    simp [execPla, pull_setReg hsp, pulled_setReg hsp, State.setReg_setReg_other _ (hne .A (by decide))]
  | plp =>
    have hsp := hne .SP (by decide)
    simp [execPlp, pull_setReg hsp, pulled_setReg hsp]
  | brk => simp [execBrk, enterBreak_setReg _ (hne .SP (by decide))]
  | rti => simp [execRti, returnFromBreak_setReg (hne .SP (by decide))]
  | clc | sec | cli | sei | cld | sed | clv => exact writeFlag_setReg
  | nop => simp [execNop]

/-- Settles O20: an instruction commutes with a write of a register it does not use, whether it answers a next state or a fault. -/
theorem unusedRegisterPassesThrough : Obligations.UnusedRegisterPassesThrough := by
  intro i s r v hu
  have hc : exec i (s.setReg r v) = setRegOfNext r v (exec i s) := (exec_runs i).setReg (usesReg_eq_usedBy i r ▸ hu) s v
  refine ⟨fun t h => ?_, fun f h => ?_⟩
  · rw [hc, h, setRegOfNext_next]
  · rw [hc, h, setRegOfNext_fault]

end Sys2Proof.Machine
end

section
/-! PROOFS. Memory (spec/20_memory.md): what the canonical list holds, and the host's byte, word and block accesses. -/

namespace Sys2Proof.Machine

/-- A byte that does not read 0x00 is listed. -/
theorem Memory.mem_of_lookup_ne_zero {m : Memory} {a : Nat} (h : m.lookup a ≠ 0x00) : (a, m.lookup a) ∈ m := by
  induction m with
  | nil => exact absurd rfl h
  | cons d rest ih =>
    obtain ⟨k, u⟩ := d
    by_cases hk : k = a
    · simp [Memory.lookup, hk]
    · simp only [Memory.lookup, hk, if_false] at h ⊢
      exact List.mem_cons_of_mem _ (ih h)

/-- A listed byte is the one its address reads as, since no address is listed twice. -/
theorem Memory.lookup_of_mem {m : Memory} {c : Host.Cell} (hr : m.Pairwise (fun c d => c.1 < d.1)) (h : c ∈ m) :
    m.lookup c.1 = c.2 := by
  induction m with
  | nil => cases h
  | cons d rest ih =>
    obtain ⟨hd, hrest⟩ := List.pairwise_cons.mp hr
    rcases List.mem_cons.mp h with rfl | hc
    · simp [Memory.lookup]
    · have hne : d.1 ≠ c.1 := (hd c hc).ne
      simpa only [Memory.lookup, hne, if_false] using ih hrest hc

/-- A canonical memory lists exactly the bytes that do not read 0x00. -/
theorem Memory.mem_iff_read {m : Memory} (h : m.wf) (c : Host.Cell) :
    c ∈ m ↔ c.1 < 65536 ∧ c.2 ≠ 0x00 ∧ m.read (BitVec.ofNat 16 c.1) = c.2 := by
  obtain ⟨hr, hc⟩ := h
  have hread : c.1 < 65536 → m.read (BitVec.ofNat 16 c.1) = m.lookup c.1 := fun hlt => by
    rw [Memory.read, BitVec.toNat_ofNat, Nat.mod_eq_of_lt hlt]
  constructor
  · intro hm
    obtain ⟨hlt, hne⟩ := hc c hm
    exact ⟨hlt, hne, (hread hlt).trans (Memory.lookup_of_mem hr hm)⟩
  · rintro ⟨hlt, hne, hv⟩
    have hl : m.lookup c.1 = c.2 := (hread hlt).symm.trans hv
    have hm := Memory.mem_of_lookup_ne_zero (m := m) (a := c.1) (hl ▸ hne)
    rwa [hl] at hm

/-- Settles O15: canonical memories that read alike list the same bytes (`Memory.mem_iff_read`), and rising lists of the same
members are equal. -/
theorem canonicalMemoryIsUnique : Obligations.CanonicalMemoryIsUnique := by
  intro m n hm hn hread
  have hasymm : Std.Asymm (fun c d : Host.Cell => c.1 < d.1) := ⟨fun _ _ => Nat.lt_asymm⟩
  refine hm.1.eq_of_mem_iff hn.1 fun c => ?_
  rw [Memory.mem_iff_read hm, Memory.mem_iff_read hn, hread]

/-- The two bytes of a word lie at different addresses, at 0xFFFF too. -/
theorem addr_add_one_ne (a : Addr) : a + 1 ≠ a := by bv_omega

/-- The low byte of a word goes to its address (R204). -/
theorem Memory.read_writeWord_lo (m : Memory) (a v : Addr) : (m.writeWord a v).read a = lo8 v := by
  rw [Memory.writeWord, Memory.read_write_other _ _ (addr_add_one_ne a).symm, Memory.read_write_same]

/-- The high byte of a word goes to the address after, 0x0000 after 0xFFFF (R204). -/
theorem Memory.read_writeWord_hi (m : Memory) (a v : Addr) : (m.writeWord a v).read (a + 1) = hi8 v := by
  rw [Memory.writeWord, Memory.read_write_same]

/-- A word write changes no third byte (R204). -/
theorem Memory.read_writeWord_other (m : Memory) {a b : Addr} (v : Addr) (hlo : b ≠ a) (hhi : b ≠ a + 1) :
    (m.writeWord a v).read b = m.read b := by
  rw [Memory.writeWord, Memory.read_write_other _ _ hhi, Memory.read_write_other _ _ hlo]

/-- A word written is the word read (R203, R204). -/
theorem Memory.readWord_writeWord (m : Memory) (a v : Addr) : (m.writeWord a v).readWord a = v := by
  rw [Memory.readWord, Memory.read_writeWord_hi, Memory.read_writeWord_lo, join_hi_lo]

/-- A state with other memory has the same registers. -/
theorem State.withMem_reg (s : State) (m : Memory) (r : Reg) : ({ s with mem := m } : State).reg r = s.reg r := by cases r <;> rfl

/-- Settles O50: the host's accesses are the reads and writes of memory. -/
theorem wordAccessIsLittleEndianAndWraps : Obligations.WordAccessIsLittleEndianAndWraps := by
  intro s a v b u
  exact ⟨rfl, Memory.read_write s.mem a b u, State.writeByte_reg s a u, rfl, rfl, join_toNat _ _,
    Memory.readWord_writeWord s.mem a v, Memory.read_writeWord_lo s.mem a v, Memory.read_writeWord_hi s.mem a v,
    Memory.read_writeWord_other s.mem v, State.withMem_reg s _, rfl, rfl, rfl, rfl⟩

theorem copyBytes_of_not_fits {origin : Addr} {bytes : List Byte} (h : 65536 < origin.toNat + bytes.length) (s : State) :
    copyBytes origin bytes s = .fault (.outOfMemory origin bytes.length) := by
  simp [copyBytes, fits, Nat.not_le.mpr h]

theorem copyBytes_of_fits {origin : Addr} {bytes : List Byte} (h : origin.toNat + bytes.length ≤ 65536) (s : State) :
    copyBytes origin bytes s = .next { s with mem := s.mem.writeBytes origin bytes } := by
  simp [copyBytes, fits, h]

/-- Settles O51: `copyBytes` faults or is a run of byte writes that fits. -/
theorem copyBytesChecksThenCopies : Obligations.CopyBytesChecksThenCopies := by
  intro origin bytes s
  refine ⟨fun h => copyBytes_of_not_fits h s, fun h =>
    ⟨_, copyBytes_of_fits h s, ?_, ?_, State.withMem_reg s _, rfl, rfl⟩⟩
  · exact Memory.read_writeBytes_inside bytes s.mem origin h
  · exact Memory.read_writeBytes_outside bytes s.mem origin h

end Sys2Proof.Machine
end

section
/-! PROOFS. What an instruction can do to memory: nothing, one byte stored at its effective address, or pushes
(spec/20_memory.md R211, R214, R220, spec/30_encoding.md R331). -/

namespace Sys2Proof.Machine

/-- Everything an instruction of mnemonic `mn` and mode `md` can do to memory: nothing; one byte stored at its effective address
(R331); or, of a mnemonic that pushes, bytes stored at stack addresses (R214). -/
inductive MemoryChange (mn : Mnemonic) (md : Mode) (s t : State) : Prop
  | unchanged (h : t.mem = s.mem)
  | store (m : MemMode) (v : Byte) (hmn : mn ∈ storeMnemonics) (hmd : md = m.mode) (h : t.mem = s.mem.write (ea m s) v)
  | push (hmn : mn ∈ pushMnemonics) (h : ∀ a, (∀ p, a ≠ stackAddr p) → t.mem.read a = s.mem.read a)

theorem addToA_mem (m : Byte) (s : State) : (addToA m s).mem = s.mem := by simp [addToA]

/-- What each meaning does to memory. -/
theorem Runs.memoryChange {mn : Mnemonic} {md : Mode} {f : State → Answer} {s t : State} (hr : Runs mn f md)
    (h : f s = .next t) : MemoryChange mn md s t := by
  cases hr with
  | lda o | ldx o | ldy o | tax | tay | txa | tya | tsx | txs | cmp o | cpx o | cpy o | and o | ora o | eor o | bit o | inx | iny
  | dex | dey | bpl off | bmi off | bvc off | bvs off | bcc off | bcs off | bne off | beq off | jmpAbs w | jmpInd w | rts | pla
  | plp | rti | clc | sec | cli | sei | cld | sed | clv | nop =>
    injection h with h; subst h
    exact .unchanged rfl
  | adc op o =>
    obtain ⟨-, rfl⟩ := adc_next h
    exact .unchanged (addToA_mem (readOperand o s) s)
  | sbc op o =>
    obtain ⟨-, rfl⟩ := sbc_next h
    exact .unchanged (addToA_mem (sbcOperand (readOperand o s)) s)
  | sta m | stx m | sty m | inc m | dec m =>
    injection h with h; subst h
    exact .store m _ (by decide) rfl rfl
  | asl tgt | lsr tgt | rol tgt | ror tgt =>
    injection h with h; subst h
    cases tgt with
    | accumulator => exact .unchanged rfl
    | memory m => exact .store m _ (by decide) rfl rfl
  | pha | php =>
    injection h with h; subst h
    obtain ⟨-, -, hmem⟩ := keeps_push s _
    exact .push (by decide) fun a ha => hmem a (by simp [ha])
  | jsr w =>
    injection h with h; subst h
    obtain ⟨-, -, -, -, -, -, hmem⟩ := pushWord_effect s (nextPC s.pc .absolute - 1)
    exact .push (by decide) fun a ha => hmem a (by simp [ha])
  | brk =>
    injection h with h; subst h
    obtain ⟨-, -, -, -, -, -, -, -, hmem⟩ := enterBreak_effect s (s.pc + 2)
    exact .push (by decide) fun a ha => hmem a (by simp [ha])

theorem exec_memoryChange {i : Instr} {s t : State} (h : exec i s = .next t) : MemoryChange i.mnemonic i.mode s t :=
  (exec_runs i).memoryChange h

/-- No store pushes. -/
theorem not_mem_pushMnemonics_of_store {mn : Mnemonic} (h : mn ∈ storeMnemonics) : mn ∉ pushMnemonics := by
  revert mn; decide

theorem MemMode.mode_ne_accumulator (m : MemMode) : m.mode ≠ .accumulator := by cases m <;> simp [MemMode.mode]

/-- Settles O18: by what the instruction can do to memory (`MemoryChange`). -/
theorem onlyStoresAndPushesChangeMemory : Obligations.OnlyStoresAndPushesChangeMemory := by
  intro i s t h
  cases exec_memoryChange h with
  | unchanged he => exact ⟨fun _ _ a => by rw [he], fun _ a _ => by rw [he]⟩
  | store m v hmn hmd he =>
    refine ⟨fun hst _ => ?_, fun hpush => absurd hpush (not_mem_pushMnemonics_of_store hmn)⟩
    rcases hst with hno | hacc
    · exact absurd hmn hno
    · exact absurd (hmd.symm.trans hacc) m.mode_ne_accumulator
  | push hmn hstack => exact ⟨fun _ hno => absurd hmn hno, fun _ a ha => hstack a (ne_stackAddr ha)⟩

end Sys2Proof.Machine
end

section
/-! PROOFS. The opcode table: the encoder's opcodes (spec/30_encoding.md R306) are those of the decoder's grid (R307), and the two
lookups, by opcode and by pair, are inverse (R305 to R311). -/

namespace Sys2Proof

open Machine

/-- `F.Makes f i`: the form `F`, with the operand bytes `f` after the opcode, makes the instruction `i` (R303, R304). -/
inductive Form.Makes : Form → OperandField → Instr → Prop
  | plain (i : Instr) : Makes (.plain i) .none i
  | byte (g : Byte → Instr) (b : Byte) : Makes (.byte g) (.byte b) (g b)
  | word (g : Addr → Instr) (w : Addr) : Makes (.word g) (.word w) (g w)

/-- The number of operand bytes a form takes (R303). -/
def Form.operandBytes : Form → Nat
  | .plain _ => 0
  | .byte _ => 1
  | .word _ => 2

theorem Form.Makes.length_bytes {F : Form} {f : OperandField} {i : Instr} (h : F.Makes f i) :
    f.bytes.length = F.operandBytes := by cases h <;> rfl

/-- A form makes an instruction of every operand of its size. -/
theorem Form.exists_makes {F : Form} {f : OperandField} (h : f.bytes.length = F.operandBytes) : ∃ i, F.Makes f i := by
  cases F with
  | plain i =>
    cases f with
    | none => exact ⟨_, .plain i⟩
    | byte | word => cases h
  | byte g =>
    cases f with
    | byte b => exact ⟨_, .byte g b⟩
    | none | word => cases h
  | word g =>
    cases f with
    | word w => exact ⟨_, .word g w⟩
    | none | byte => cases h

/-- `Form.build` makes the instruction whose operand bytes it is given first; the bytes after them are not used. -/
theorem Form.Makes.build_eq {F : Form} {f : OperandField} {i : Instr} {b1 b2 : Byte} (h : F.Makes f i)
    (hb : f.bytes <+: [b1, b2]) : F.build b1 b2 = i := by
  cases h with
  | plain => rfl
  | byte g b =>
    obtain rfl : b = b1 := by simpa [OperandField.bytes] using hb
    rfl
  | word g w =>
    obtain ⟨rfl, rfl⟩ : lo8 w = b1 ∧ hi8 w = b2 := by simpa [OperandField.bytes] using hb
    rw [Form.build, join_hi_lo]

/-- What a row of the decoder's table (R307) says is what the encoder (R306) says of every instruction its form makes. -/
structure OpcodeRow.Sound (r : OpcodeRow) : Prop where
  operandBytes_eq : r.form.operandBytes = r.mode.operandBytes
  opcode_eq : ∀ {f i}, r.form.Makes f i → i.opcode = r.opcode
  parts_eq : ∀ {f i}, r.form.Makes f i → i.parts = ⟨r.mnemonic, r.mode, f⟩

/-- The grid (R307) agrees with the encoder's table (R306), row by row. -/
theorem opcodeTable_sound : ∀ r ∈ opcodeTable, r.Sound := by
  simp only [opcodeTable, opcodeRows0, opcodeRows2, opcodeRows4, opcodeRows6, opcodeRows8, opcodeRowsA, opcodeRowsC, opcodeRowsE,
    List.forall_mem_append, List.forall_mem_cons, List.not_mem_nil, IsEmpty.forall_iff, implies_true, and_true]
  and_intros <;> exact ⟨rfl, by rintro _ _ ⟨⟩; rfl, by rintro _ _ ⟨⟩; rfl⟩

/-- A row found by opcode among rows of the table. -/
theorem exists_row_of_find? {rows : List OpcodeRow} {i : Instr} {r : OpcodeRow} (hrows : rows ⊆ opcodeTable)
    (hr : rows.find? (fun r => r.opcode == i.opcode) = some r) (hm : r.form.Makes i.operand i) :
    ∃ r ∈ opcodeTable, r.form.Makes i.operand i := ⟨r, hrows (List.mem_of_find?_eq_some hr), hm⟩

/-- Every instruction is made by a row of the table, of its own operand: the encoder's opcode is in the decoder's grid (R307),
here by the rows of the grid. -/
theorem Instr.exists_row (i : Instr) : ∃ r ∈ opcodeTable, r.form.Makes i.operand i := by
  have rows0 : opcodeRows0 ⊆ opcodeTable := fun r h => by simp [opcodeTable, h]
  have rows2 : opcodeRows2 ⊆ opcodeTable := fun r h => by simp [opcodeTable, h]
  have rows4 : opcodeRows4 ⊆ opcodeTable := fun r h => by simp [opcodeTable, h]
  have rows6 : opcodeRows6 ⊆ opcodeTable := fun r h => by simp [opcodeTable, h]
  have rows8 : opcodeRows8 ⊆ opcodeTable := fun r h => by simp [opcodeTable, h]
  have rowsA : opcodeRowsA ⊆ opcodeTable := fun r h => by simp [opcodeTable, h]
  have rowsC : opcodeRowsC ⊆ opcodeTable := fun r h => by simp [opcodeTable, h]
  have rowsE : opcodeRowsE ⊆ opcodeTable := fun r h => by simp [opcodeTable, h]
  cases i with
  | brk | oraIndX | oraZp | aslZp | php | oraImm | aslAcc | oraAbs | aslAbs | bpl | oraIndY | oraZpX | aslZpX | clc | oraAbsY
  | oraAbsX | aslAbsX =>
    exact exists_row_of_find? rows0 rfl (by constructor)
  | jsrAbs | andIndX | bitZp | andZp | rolZp | plp | andImm | rolAcc | bitAbs | andAbs | rolAbs | bmi | andIndY | andZpX
  | rolZpX | sec | andAbsY | andAbsX | rolAbsX =>
    exact exists_row_of_find? rows2 rfl (by constructor)
  | rti | eorIndX | eorZp | lsrZp | pha | eorImm | lsrAcc | jmpAbs | eorAbs | lsrAbs | bvc | eorIndY | eorZpX | lsrZpX | cli
  | eorAbsY | eorAbsX | lsrAbsX =>
    exact exists_row_of_find? rows4 rfl (by constructor)
  | rts | adcIndX | adcZp | rorZp | pla | adcImm | rorAcc | jmpInd | adcAbs | rorAbs | bvs | adcIndY | adcZpX | rorZpX | sei
  | adcAbsY | adcAbsX | rorAbsX =>
    exact exists_row_of_find? rows6 rfl (by constructor)
  | staIndX | styZp | staZp | stxZp | dey | txa | styAbs | staAbs | stxAbs | bcc | staIndY | styZpX | staZpX | stxZpY | tya
  | staAbsY | txs | staAbsX =>
    exact exists_row_of_find? rows8 rfl (by constructor)
  | ldyImm | ldaIndX | ldxImm | ldyZp | ldaZp | ldxZp | tay | ldaImm | tax | ldyAbs | ldaAbs | ldxAbs | bcs | ldaIndY | ldyZpX
  | ldaZpX | ldxZpY | clv | ldaAbsY | tsx | ldyAbsX | ldaAbsX | ldxAbsY =>
    exact exists_row_of_find? rowsA rfl (by constructor)
  | cpyImm | cmpIndX | cpyZp | cmpZp | decZp | iny | cmpImm | dex | cpyAbs | cmpAbs | decAbs | bne | cmpIndY | cmpZpX | decZpX
  | cld | cmpAbsY | cmpAbsX | decAbsX =>
    exact exists_row_of_find? rowsC rfl (by constructor)
  | cpxImm | sbcIndX | cpxZp | sbcZp | incZp | inx | sbcImm | nop | cpxAbs | sbcAbs | incAbs | beq | sbcIndY | sbcZpX | incZpX
  | sed | sbcAbsY | sbcAbsX | incAbsX =>
    exact exists_row_of_find? rowsE rfl (by constructor)

/-- A search by a key that no two members share finds exactly the member with that key. -/
theorem find?_eq_some_iff_of_nodup_key {α β : Type} {l : List α} {key : α → β} (hl : (l.map key).Nodup) {p : α → Bool}
    {b : β} (hp : ∀ x, p x = true ↔ key x = b) {a : α} : l.find? p = some a ↔ a ∈ l ∧ key a = b := by
  constructor
  · intro h
    exact ⟨List.mem_of_find?_eq_some h, (hp a).mp (List.find?_some h)⟩
  · rintro ⟨ha, hb⟩
    cases h : l.find? p with
    | none => exact absurd ((hp a).mpr hb) (List.find?_eq_none.mp h a ha)
    | some c =>
      have hc : key c = b := (hp c).mp (List.find?_some h)
      rw [List.inj_on_of_nodup_map hl (List.mem_of_find?_eq_some h) ha (hc.trans hb.symm)]

/-- In order, the 151 opcodes of the table and the 105 bytes of R308 are the 256 bytes. -/
theorem opcodes_append_illegalOpcodes_perm :
    (opcodeTable.map OpcodeRow.opcode ++ Claims.illegalOpcodes).Perm ((List.finRange (2 ^ 8)).map BitVec.ofFin) := by
  have hsorted : List.insertionSort (fun a b => a.toNat ≤ b.toNat) (opcodeTable.map OpcodeRow.opcode ++ Claims.illegalOpcodes) =
      (List.finRange (2 ^ 8)).map BitVec.ofFin := by decide +kernel
  exact hsorted ▸ (List.perm_insertionSort _ _).symm

theorem nodup_opcodes_append_illegalOpcodes : (opcodeTable.map OpcodeRow.opcode ++ Claims.illegalOpcodes).Nodup :=
  opcodes_append_illegalOpcodes_perm.nodup_iff.mpr
    ((List.nodup_finRange _).map fun _ _ h => congrArg BitVec.toFin h)

theorem mem_opcodes_append_illegalOpcodes (op : Byte) : op ∈ opcodeTable.map OpcodeRow.opcode ++ Claims.illegalOpcodes :=
  opcodes_append_illegalOpcodes_perm.mem_iff.mpr (List.mem_map.mpr ⟨op.toFin, List.mem_finRange _, rfl⟩)

/-- No (mnemonic, mode) pair has two opcodes (R306). -/
theorem nodup_pairs : (opcodeTable.map fun r => (r.mnemonic, r.mode)).Nodup := by decide +kernel

theorem opcodeRow_eq_some_iff {op : Byte} {r : OpcodeRow} : opcodeRow op = some r ↔ r ∈ opcodeTable ∧ r.opcode = op :=
  find?_eq_some_iff_of_nodup_key nodup_opcodes_append_illegalOpcodes.of_append_left fun _ => beq_iff_eq

theorem opcodeOf_eq_some_iff {mn : Mnemonic} {m : Mode} {op : Byte} :
    opcodeOf mn m = some op ↔ ∃ r ∈ opcodeTable, r.mnemonic = mn ∧ r.mode = m ∧ r.opcode = op := by
  have hfind : ∀ r, opcodeTable.find? (fun r => r.mnemonic == mn && r.mode == m) = some r ↔
      r ∈ opcodeTable ∧ (r.mnemonic, r.mode) = (mn, m) :=
    fun _ => find?_eq_some_iff_of_nodup_key nodup_pairs fun _ => by simp
  simp [opcodeOf, hfind, and_assoc]

/-- The lookup by opcode is the inverse of the lookup by pair, with the length the mode gives (R311). -/
theorem decodeOpcode_eq_some_iff {op : Byte} {mn : Mnemonic} {m : Mode} {n : Nat} :
    decodeOpcode op = some (mn, m, n) ↔ opcodeOf mn m = some op ∧ n = m.length := by
  simp only [decodeOpcode, Option.map_eq_some_iff, opcodeRow_eq_some_iff, opcodeOf_eq_some_iff, Prod.mk.injEq]
  constructor
  · rintro ⟨r, ⟨hr, rfl⟩, rfl, rfl, rfl⟩
    exact ⟨⟨r, hr, rfl, rfl, rfl⟩, rfl⟩
  · rintro ⟨⟨r, hr, rfl, rfl, rfl⟩, rfl⟩
    exact ⟨r, ⟨hr, rfl⟩, rfl, rfl, rfl⟩

theorem decodeOpcode_eq_none_iff {op : Byte} : decodeOpcode op = none ↔ op ∉ opcodeTable.map OpcodeRow.opcode := by
  simp [decodeOpcode, opcodeRow]

/-- The table by mnemonic and mode holds the opcode of every instruction (R306). -/
theorem Instr.opcodeOf_eq (i : Instr) : opcodeOf i.mnemonic i.mode = some i.opcode := by
  obtain ⟨r, hr, hm⟩ := i.exists_row
  have hs := opcodeTable_sound r hr
  rw [Instr.mnemonic, Instr.mode, hs.parts_eq hm, opcodeOf_eq_some_iff]
  exact ⟨r, hr, rfl, rfl, (hs.opcode_eq hm).symm⟩

/-- An instruction is as long as its mode says (R301). -/
theorem Instr.length_encode (i : Instr) : (encode i).length = i.mode.length := by
  obtain ⟨r, hr, hm⟩ := i.exists_row
  have hs := opcodeTable_sound r hr
  rw [encode, List.length_cons, hm.length_bytes, hs.operandBytes_eq, Instr.mode, hs.parts_eq hm, Mode.length, Nat.add_comm]

/-- A pair with an opcode and an operand that fits the mode are an instruction (R309, R345). -/
theorem exists_instr_of_opcodeOf {mn : Mnemonic} {m : Mode} {op : Byte} {f : OperandField} (h : opcodeOf mn m = some op)
    (hf : f.bytes.length = m.operandBytes) : ∃ i : Instr, i.opcode = op ∧ i.parts = ⟨mn, m, f⟩ := by
  obtain ⟨r, hr, rfl, rfl, rfl⟩ := opcodeOf_eq_some_iff.mp h
  have hs := opcodeTable_sound r hr
  obtain ⟨i, hm⟩ := Form.exists_makes (hf.trans hs.operandBytes_eq.symm)
  exact ⟨i, hs.opcode_eq hm, hs.parts_eq hm⟩

theorem encodeOpcode_eq_ok_iff {mn : Mnemonic} {m : Mode} {op : Byte} :
    encodeOpcode mn m = .ok op ↔ opcodeOf mn m = some op := by
  cases h : opcodeOf mn m <;> simp [encodeOpcode, h]

/-- The one error of `encodeOpcode` (R1404). -/
theorem encodeOpcode_eq_error_iff {mn : Mnemonic} {m : Mode} {f : Fault} :
    encodeOpcode mn m = .error f ↔ opcodeOf mn m = none ∧ f = .unsupportedEncoding mn m := by
  cases h : opcodeOf mn m <;> simp [encodeOpcode, h, eq_comm]

/-- Settles O3: both lookups are read off the one table (`decodeOpcode_eq_some_iff`), which holds every instruction. -/
theorem opcodeLookupsAreInverse : Obligations.OpcodeLookupsAreInverse := by
  refine ⟨fun m d op h => ?_, fun op m d n h => ?_, fun i => ?_⟩
  · exact decodeOpcode_eq_some_iff.mpr ⟨encodeOpcode_eq_ok_iff.mp h, rfl⟩
  · obtain ⟨hop, -⟩ := decodeOpcode_eq_some_iff.mp h
    exact encodeOpcode_eq_ok_iff.mpr hop
  · exact decodeOpcode_eq_some_iff.mpr ⟨i.opcodeOf_eq, i.length_encode⟩

theorem mem_allMnemonics (mn : Mnemonic) : mn ∈ Claims.allMnemonics := by cases mn <;> decide

theorem mem_allModes (m : Mode) : m ∈ Claims.allModes := by cases m <;> decide

/-- The pairs with an opcode are those of the 151 rows, each once. -/
theorem definedPairs_perm :
    ((Claims.allMnemonics.product Claims.allModes).filter fun p => (opcodeOf p.1 p.2).isSome).Perm
      (opcodeTable.map fun r => (r.mnemonic, r.mode)) := by
  have hall : (Claims.allMnemonics.product Claims.allModes).Nodup :=
    List.Nodup.product (by decide +kernel) (by decide)
  refine (List.perm_ext_iff_of_nodup (hall.filter _) nodup_pairs).mpr fun ⟨mn, m⟩ => ?_
  simp [List.pair_mem_product, mem_allMnemonics, mem_allModes, Option.isSome_iff_exists, opcodeOf_eq_some_iff]

/-- Stated for variables: with the tables in place of `l` and `f`, checking the subtraction would run every lookup. -/
theorem length_filter_isNone {α β : Type} {l : List α} {f : α → Option β} {n k : Nat} (hl : l.length = n)
    (hk : (l.filter fun a => (f a).isSome).length = k) : (l.filter fun a => (f a).isNone).length = n - k := by
  have h := List.length_eq_length_filter_add (l := l) fun a => (f a).isSome
  simp only [Option.not_isSome, hl, hk] at h
  omega

/-- `56 × 13 − 151 = 577` (R1404). -/
theorem length_undefinedPairs :
    ((Claims.allMnemonics.product Claims.allModes).filter fun p => (opcodeOf p.1 p.2).isNone).length = 577 := by
  have hall : (Claims.allMnemonics.product Claims.allModes).length = 56 * 13 := List.length_product _ _
  have htable : (opcodeTable.map fun r => (r.mnemonic, r.mode)).length = 151 := by decide +kernel
  exact length_filter_isNone hall (definedPairs_perm.length_eq.trans htable)

/-- Settles O4: a pair has no opcode exactly where no opcode decodes to it, and there are 56 × 13 − 151 such pairs. -/
theorem undefinedPairsAreUnsupported : Obligations.UndefinedPairsAreUnsupported := by
  refine ⟨fun m d => ?_, fun m d f h => ?_, mem_allMnemonics, rfl, mem_allModes, rfl, length_undefinedPairs⟩
  · simp [encodeOpcode_eq_error_iff, decodeOpcode_eq_some_iff, Option.eq_none_iff_forall_ne_some]
  · obtain ⟨-, hf⟩ := encodeOpcode_eq_error_iff.mp h
    exact hf

/-- The bytes with no table entry are those R308 lists. -/
theorem decodeOpcode_eq_none_iff_mem_illegalOpcodes {op : Byte} : decodeOpcode op = none ↔ op ∈ Claims.illegalOpcodes := by
  rw [decodeOpcode_eq_none_iff]
  constructor
  · exact (List.mem_append.mp (mem_opcodes_append_illegalOpcodes op)).resolve_left
  · exact fun hi ho => List.disjoint_of_nodup_append nodup_opcodes_append_illegalOpcodes ho hi

/-- A step at a byte with no table entry faults (R402, R1401). -/
theorem step_of_decodeOpcode_eq_none {s : State} (h : decodeOpcode (s.mem.read s.pc) = none) :
    step s = .fault (.unknownOpcode s.pc (s.mem.read s.pc)) := by
  have hrow : opcodeRow (s.mem.read s.pc) = none := Option.map_eq_none_iff.mp h
  rcases step_cases s with ⟨i, hi, -⟩ | ⟨-, hf⟩
  · simp [decodeAt, hrow] at hi
  · exact hf

/-- Settles O5: the 105 bytes are those the 151 opcodes leave. -/
theorem illegalOpcodesFault : Obligations.IllegalOpcodesFault :=
  ⟨rfl, nodup_opcodes_append_illegalOpcodes.of_append_right, fun _ => decodeOpcode_eq_none_iff_mem_illegalOpcodes,
    fun _ h => step_of_decodeOpcode_eq_none (decodeOpcode_eq_none_iff_mem_illegalOpcodes.mpr h)⟩

end Sys2Proof
end

section
/-! PROOFS. The decoder is the inverse of the encoder, on a list of bytes and at the PC (spec/30_encoding.md R300 to R304). -/

namespace Sys2Proof

open Machine

/-- The row of an opcode makes exactly the instructions the encoder gives that opcode, each of its own operand. -/
theorem exists_opcodeRow_makes_iff {op : Byte} {f : OperandField} {i : Instr} :
    (∃ r, opcodeRow op = some r ∧ r.form.Makes f i) ↔ i.opcode = op ∧ i.operand = f := by
  simp only [opcodeRow_eq_some_iff]
  constructor
  · rintro ⟨r, ⟨hr, rfl⟩, hm⟩
    have hs := opcodeTable_sound r hr
    exact ⟨hs.opcode_eq hm, by rw [Instr.operand, hs.parts_eq hm]⟩
  · rintro ⟨rfl, rfl⟩
    obtain ⟨r, hr, hm⟩ := i.exists_row
    exact ⟨r, ⟨hr, ((opcodeTable_sound r hr).opcode_eq hm).symm⟩, hm⟩

/-- `decode` takes an opcode byte with a row and the operand bytes of an instruction its form makes. -/
theorem decode_eq_ok_iff_exists_row {bytes rest : List Byte} {i : Instr} :
    decode bytes = .ok (i, rest) ↔
      ∃ op f, (∃ r, opcodeRow op = some r ∧ r.form.Makes f i) ∧ bytes = op :: f.bytes ++ rest := by
  constructor
  · intro h
    cases bytes with
    | nil => cases h
    | cons op tail =>
      cases hrow : opcodeRow op with
      | none => simp [decode, hrow] at h
      | some r =>
        obtain ⟨_, _, _, F⟩ := r
        cases F with
        | plain j =>
          obtain ⟨rfl, rfl⟩ : j = i ∧ tail = rest := by simpa [decode, hrow] using h
          exact ⟨op, _, ⟨_, hrow, .plain j⟩, rfl⟩
        | byte g =>
          match tail with
          | [] => simp [decode, hrow] at h
          | b :: tail =>
            obtain ⟨rfl, rfl⟩ : g b = i ∧ tail = rest := by simpa [decode, hrow] using h
            exact ⟨op, _, ⟨_, hrow, .byte g b⟩, rfl⟩
        | word g =>
          match tail with
          | [] | [_] => simp [decode, hrow] at h
          | b1 :: b2 :: tail =>
            obtain ⟨rfl, rfl⟩ : g (join b2 b1) = i ∧ tail = rest := by simpa [decode, hrow] using h
            exact ⟨op, _, ⟨_, hrow, .word g _⟩, by simp [OperandField.bytes, lo8_join, hi8_join]⟩
  · rintro ⟨op, f, ⟨⟨_, _, _, F⟩, hrow, hm⟩, rfl⟩
    cases hm with
    | plain => simp [decode, hrow, OperandField.bytes]
    | byte g b => simp [decode, hrow, OperandField.bytes]
    | word g w => simp [decode, hrow, OperandField.bytes, join_hi_lo]

/-- The decoder accepts exactly the encodings (R300, R311). -/
theorem decode_eq_ok_iff {bytes rest : List Byte} {i : Instr} : decode bytes = .ok (i, rest) ↔ bytes = encode i ++ rest := by
  simp [decode_eq_ok_iff_exists_row, exists_opcodeRow_makes_iff, encode]

/-- The engine's decoder reads an instruction off its encoding, whatever the bytes after it (R303). -/
theorem decodeAt_of_encode_prefix {i : Instr} {op b1 b2 : Byte} (h : encode i <+: [op, b1, b2]) :
    decodeAt op b1 b2 = some i := by
  obtain ⟨hop, hb⟩ := List.cons_prefix_cons.mp h
  obtain ⟨r, hrow, hm⟩ := exists_opcodeRow_makes_iff.mpr ⟨hop, rfl⟩
  rw [decodeAt, hrow, Option.map_some, hm.build_eq hb]

/-- Settles O1: the decoder accepts exactly the encodings. -/
theorem decodeOfEncodeIsTheInstruction : Obligations.DecodeOfEncodeIsTheInstruction :=
  fun _ _ => decode_eq_ok_iff.mpr rfl

/-- Settles O2: the decoder accepts exactly the encodings. -/
theorem decodedBytesAreTheEncoding : Obligations.DecodedBytesAreTheEncoding :=
  fun _ _ _ h => decode_eq_ok_iff.mp h

/-- A step at bytes that decode runs the instruction (R400). -/
theorem step_of_decodeAt {s : State} {i : Instr}
    (h : decodeAt (s.mem.read s.pc) (s.mem.read (s.pc + 1)) (s.mem.read (s.pc + 2)) = some i) : step s = exec i s := by
  rcases step_cases s with ⟨j, hj, hstep⟩ | ⟨hrow, -⟩
  · rwa [Option.some_inj.mp (hj.symm.trans h)] at hstep
  · simp [decodeAt, hrow] at h

theorem Mode.length_le_three (m : Mode) : m.length ≤ 3 := by cases m <;> decide

/-- Settles O8: an encoding has at most three bytes, so the three fetched begin with it. -/
theorem stepRunsTheInstructionStoredAtPC : Obligations.StepRunsTheInstructionStoredAtPC := by
  intro s i h
  refine step_of_decodeAt (decodeAt_of_encode_prefix (List.prefix_iff_getElem?.mpr fun k hk => ?_))
  rw [← List.getElem?_eq_getElem hk, h k hk]
  have hlen := i.length_encode ▸ i.mode.length_le_three
  match k with
  | 0 => simp
  | 1 | 2 => rfl
  | k + 3 => omega

/-- Settles O6: by the decoder on each word. -/
theorem writtenOutWordsDecode : Obligations.WrittenOutWordsDecode := by
  unfold Obligations.WrittenOutWordsDecode
  and_intros <;> rfl

end Sys2Proof
end

section
/-! PROOFS. The effective addresses (spec/30_encoding.md R320 to R330), the pointer modes on numbers. -/

namespace Sys2Proof.Machine

/-- The address a zero-page pointer takes its high byte from (R326, R327): the next one, wrapped to 0x0000 where `wrap` holds. -/
theorem zpPointerWith_eq (wrap : Bool) (mem : Memory) (ptr : Byte) :
    zpPointerWith wrap mem ptr =
      join (mem.read (BitVec.ofNat 16 (if wrap then (ptr.toNat + 1) % 256 else ptr.toNat + 1)))
        (mem.read (BitVec.ofNat 16 ptr.toNat)) := by
  have hlt := ptr.isLt
  have hlo : zext16 ptr = BitVec.ofNat 16 ptr.toNat :=
    BitVec.eq_of_toNat_eq (by rw [zext16_toNat, BitVec.toNat_ofNat, Nat.mod_eq_of_lt (by omega)])
  have hnext : zext16 ptr + 1 = BitVec.ofNat 16 (ptr.toNat + 1) := by rw [hlo, BitVec.ofNat_add]; rfl
  rw [zpPointerWith, hnext, hlo]
  cases wrap with
  | false => simp
  | true =>
    by_cases hff : ptr = 0xFF
    · subst hff; rfl
    · have hne : ptr.toNat ≠ 255 := fun h => hff (BitVec.eq_of_toNat_eq h)
      rw [if_pos rfl, Nat.mod_eq_of_lt (by omega), if_neg (by simpa using hff)]

/-- The two readings of a zero-page pointer are one at every pointer but 0xFF. -/
theorem zpPointerWith_wrap_irrelevant (mem : Memory) {ptr : Byte} (h : ptr ≠ 0xFF) (w w' : Bool) :
    zpPointerWith w mem ptr = zpPointerWith w' mem ptr := by
  have hff : (ptr == 0xFF) = false := beq_eq_false_iff_ne.mpr h
  simp only [zpPointerWith, hff, Bool.false_and]

/-- The two readings of an Indirect pointer are one where its low byte is not 0xFF (R325). -/
theorem indirectWith_wrap_irrelevant (mem : Memory) {ptr : Addr} (h : ptr.toNat % 256 ≠ 255) (w w' : Bool) :
    indirectWith w mem ptr = indirectWith w' mem ptr := by
  have hff : (lo8 ptr == 0xFF) = false := beq_eq_false_iff_ne.mpr fun he => h (by rw [← lo8_toNat, he]; rfl)
  simp only [indirectWith, hff, Bool.false_and]

/-- Settles O48: the word at the pointer (`zpPointerWith_eq`), indexed before or after. -/
theorem zeroPagePointerAddresses : Obligations.ZeroPagePointerAddresses := by
  intro s b word
  have hword : ∀ ptr : Byte, (zpPointerWith Config.zpPtrWrap s.mem ptr).toNat = word Config.zpPtrWrap ptr.toNat :=
    fun ptr => by rw [zpPointerWith_eq, join_toNat]
  constructor
  · rw [ea, eaWith, hword, BitVec.toNat_add]
  · rw [ea, eaWith, BitVec.toNat_add, hword, zext16_toNat]

/-- Settles O49: the parameters enter through the two pointer reads alone, and those differ only at 0xFF. -/
theorem pointerParametersMatterOnlyAtFF : Obligations.PointerParametersMatterOnlyAtFF := by
  refine ⟨fun m s h => ?_, fun mem ptr h => ?_⟩
  · cases m with
    | zeroPage | zeroPageX | zeroPageY | absolute | absoluteX | absoluteY => exact absurd rfl h
    | xIndexedIndirect b =>
      exact ⟨b, .inl ⟨rfl, by_contra fun hff => h (zpPointerWith_wrap_irrelevant s.mem hff true false)⟩⟩
    | indirectYIndexed b =>
      exact ⟨b, .inr ⟨rfl, by_contra fun hff =>
        h (congrArg (· + zext16 s.y) (zpPointerWith_wrap_irrelevant s.mem hff true false))⟩⟩
  · exact by_contra fun hff => h (indirectWith_wrap_irrelevant mem hff true false)

/-- Settles O47: each mode's address is its sum, at the width of the address. -/
theorem directAndIndexedAddresses : Obligations.DirectAndIndexedAddresses := by
  intro s b w
  have hpage0 : ∀ index : Byte, (zext16 (b + index)).toNat = (b.toNat + index.toNat) % 256 :=
    fun index => by rw [zext16_toNat, BitVec.toNat_add]
  have hword : ∀ index : Byte, (w + zext16 index).toNat = (w.toNat + index.toNat) % 65536 :=
    fun index => by rw [BitVec.toNat_add, zext16_toNat]
  exact ⟨zext16_toNat b, rfl, hpage0 s.x, hpage0 s.y, hword s.x, hword s.y, rfl, rfl, fun _ => rfl⟩

end Sys2Proof.Machine
end

section
/-! PROOFS. The assembler's lines (spec/30_encoding.md R340 to R348): each is the encoding of the instruction its tokens name. -/

namespace Sys2Proof.Machine

/-- A literal has the operand bytes of the mode it infers (R342, case 5). -/
theorem inferLiteral_fits {mn : Mnemonic} {tok : List Char} {m : Mode} {f : OperandField}
    (h : inferLiteral mn tok = some (m, f)) : f.bytes.length = m.operandBytes := by
  rcases hs : splitSuffix tok with ⟨lit, suffix⟩
  simp only [inferLiteral, hs] at h
  split at h
  case h_1 =>
    cases suffix with
    | none =>
      cases h
      cases isBranchMnemonic mn <;> rfl
    | x | y =>
      obtain ⟨-, h⟩ := Option.ite_none_left_eq_some.mp h
      cases h; rfl
  case h_2 =>
    cases suffix with
    | none => cases h; rfl
    | x | y =>
      obtain ⟨-, h⟩ := Option.ite_none_left_eq_some.mp h
      cases h; rfl
  case h_3 => cases h

/-- So has what follows `(` (R342, case 4). -/
theorem inferParen_fits {tok : List Char} {m : Mode} {f : OperandField} (h : inferParen tok = some (m, f)) :
    f.bytes.length = m.operandBytes := by
  unfold inferParen at h
  split at h
  case h_1 | h_2 =>
    obtain ⟨-, h⟩ := Option.ite_none_right_eq_some.mp h
    obtain ⟨b, -, h⟩ := Option.map_eq_some_iff.mp h
    cases h; rfl
  case h_3 =>
    obtain ⟨w, -, h⟩ := Option.map_eq_some_iff.mp h
    cases h; rfl
  case h_4 => cases h

/-- An operand token has the operand bytes of the mode it infers (R342). -/
theorem inferOperand_fits {mn : Mnemonic} {tok : List Char} {m : Mode} {f : OperandField}
    (h : inferOperand mn tok = some (m, f)) : f.bytes.length = m.operandBytes := by
  unfold inferOperand at h
  split at h
  case h_1 | h_2 => cases h; rfl
  case h_3 =>
    obtain ⟨b, -, h⟩ := Option.map_eq_some_iff.mp h
    cases h; rfl
  case h_4 => exact inferParen_fits h
  case h_5 => exact inferLiteral_fits h

/-- What is emitted for a pair and an operand that fits the mode is the encoding of an instruction (R345). -/
theorem exists_instr_of_emit {mn : Mnemonic} {m : Mode} {f : OperandField} {bytes : List Byte} (h : emit mn m f = .ok bytes)
    (hf : f.bytes.length = m.operandBytes) : ∃ i : Instr, bytes = encode i ∧ i.parts = ⟨mn, m, f⟩ := by
  cases hop : encodeOpcode mn m with
  | error _ => simp [emit, hop] at h
  | ok op =>
    obtain rfl : op :: f.bytes = bytes := by simpa [emit, hop] using h
    obtain ⟨i, hi, hparts⟩ := exists_instr_of_opcodeOf (encodeOpcode_eq_ok_iff.mp hop) hf
    exact ⟨i, by rw [encode, hi, Instr.operand, hparts], hparts⟩

/-- Settles O57: a line that assembles emits one pair with an operand that fits it. -/
theorem assembledLineIsOneInstruction : Obligations.AssembledLineIsOneInstruction := by
  intro toks bytes h
  match toks with
  | [] =>
    cases h
    exact .inl ⟨rfl, rfl⟩
  | [t] =>
    cases hmn : parseMnemonic t with
    | none => simp [assembleTokens, hmn] at h
    | some mn =>
      have hemit : emit mn .implicit .none = .ok bytes := by simpa [assembleTokens, hmn] using h
      obtain ⟨i, rfl, hparts⟩ := exists_instr_of_emit hemit rfl
      refine .inr ⟨i, rfl, decode_eq_ok_iff.mpr (List.append_nil _).symm, .inl ⟨t, rfl, ?_⟩⟩
      simp [Instr.mnemonic, Instr.mode, Instr.operand, hparts, hmn]
  | [t, o] =>
    cases hmn : parseMnemonic t with
    | none => simp [assembleTokens, hmn] at h
    | some mn =>
      cases ho : inferOperand mn o with
      | none => simp [assembleTokens, hmn, ho] at h
      | some mf =>
        obtain ⟨m, f⟩ := mf
        have hemit : emit mn m f = .ok bytes := by simpa [assembleTokens, hmn, ho] using h
        obtain ⟨i, rfl, hparts⟩ := exists_instr_of_emit hemit (inferOperand_fits ho)
        refine .inr ⟨i, rfl, decode_eq_ok_iff.mpr (List.append_nil _).symm, .inr ⟨t, o, rfl, ?_⟩⟩
        simp [Instr.mnemonic, Instr.mode, Instr.operand, hparts, hmn, ho]
  | _ :: _ :: _ :: _ => cases h

end Sys2Proof.Machine
end

section
/-! PROOFS. The execute cycle (spec/40_execute_cycle.md R400 to R408): what a step runs, which answer an instruction gives, where PC
goes, and the counted run. -/

namespace Sys2Proof.Machine

/-- Settles O7: by what a step at bytes that decode runs. -/
theorem stepRunsDecodedInstruction : Obligations.StepRunsDecodedInstruction :=
  fun _ _ => step_of_decodeAt

/-- ADC and SBC run under the decimal guard, with their own opcode (R700). -/
theorem exec_eq_decimalGuard {i : Instr} (h : i.mnemonic = .ADC ∨ i.mnemonic = .SBC) (s : State) :
    ∃ e, exec i s = decimalGuard i.opcode s e := by
  cases i with
  | adcImm | adcZp | adcZpX | adcAbs | adcAbsX | adcAbsY | adcIndX | adcIndY
  | sbcImm | sbcZp | sbcZpX | sbcAbs | sbcAbsX | sbcAbsY | sbcIndX | sbcIndY => exact ⟨_, rfl⟩
  | _ => rcases h with h | h <;> cases h

/-- Every meaning but those of ADC and SBC answers a next state (R406). -/
theorem Runs.exists_next {mn : Mnemonic} {md : Mode} {f : State → Answer} (hr : Runs mn f md)
    (h : ¬ (mn = .ADC ∨ mn = .SBC)) (s : State) : ∃ t, f s = .next t := by
  cases hr with
  | adc => exact absurd (.inl rfl) h
  | sbc => exact absurd (.inr rfl) h
  | _ => exact ⟨_, rfl⟩

/-- Settles O10: only ADC and SBC have the decimal guard, which faults with D = 1 alone. -/
theorem everyInstructionCompletesOutsideDecimal : Obligations.EveryInstructionCompletesOutsideDecimal := by
  intro i s
  by_cases hmn : i.mnemonic = .ADC ∨ i.mnemonic = .SBC
  · obtain ⟨e, he⟩ := exec_eq_decimalGuard hmn s
    rw [he]
    rcases decimalGuard_cases i.opcode s e with ⟨hd, hg⟩ | ⟨hd, hg⟩
    · exact ⟨fun h => absurd ⟨hmn, hd⟩ h, fun _ _ => hg⟩
    · exact ⟨fun _ => ⟨e, hg⟩, fun _ hd' => by rw [hd] at hd'; cases hd'⟩
  · exact ⟨fun _ => (exec_runs i).exists_next hmn s, fun h => absurd h hmn⟩

theorem nextPC_toNat (pc : Addr) (m : Mode) : (nextPC pc m).toNat = (pc.toNat + m.length) % 65536 := by
  simp [nextPC, BitVec.toNat_add, BitVec.toNat_ofNat]

theorem addToA_pc (m : Byte) (s : State) : (addToA m s).pc = s.pc := by simp [addToA]

/-- Every meaning but a control transfer makes the generic advance (R404). -/
theorem Runs.pc_eq_nextPC {mn : Mnemonic} {md : Mode} {f : State → Answer} {s t : State} (hr : Runs mn f md)
    (hmn : mn ∉ controlMnemonics) (h : f s = .next t) : t.pc = nextPC s.pc md := by
  cases hr with
  | bpl | bmi | bvc | bvs | bcc | bcs | bne | beq | jmpAbs | jmpInd | jsr | rts | brk | rti => exact absurd (by decide) hmn
  | adc op o =>
    obtain ⟨-, rfl⟩ := adc_next h
    rw [State.advance_pc, addToA_pc]
  | sbc op o =>
    obtain ⟨-, rfl⟩ := sbc_next h
    rw [State.advance_pc, addToA_pc]
  | sta m | stx m | sty m | inc m | dec m | asl tgt | lsr tgt | rol tgt | ror tgt =>
    injection h with h; subst h
    simp
  | _ =>
    injection h with h; subst h
    rfl

/-- Settles O19: the generic advance is by the length of the mode, which is that of the encoding. -/
theorem genericAdvanceOutsideControlTransfer : Obligations.GenericAdvanceOutsideControlTransfer := by
  intro i s t h hmn
  rw [(exec_runs i).pc_eq_nextPC hmn h, nextPC_toNat, i.length_encode]

theorem processInstructions_succ_of_next {s t : State} (h : step s = .next t) (n : Nat) :
    processInstructions (n + 1) s = processInstructions n t := by rw [processInstructions, h]

theorem processInstructions_succ_of_fault {s : State} {f : Fault} (h : step s = .fault f) (n : Nat) :
    processInstructions (n + 1) s = (s, .fault f) := by rw [processInstructions, h]

theorem processInstructions_succ_of_refused {s : State} {r : Refusal} (h : step s = .refused r) (n : Nat) :
    processInstructions (n + 1) s = (s, .refused r) := by rw [processInstructions, h]

/-- Counted runs compose, unless the first stops. -/
theorem processInstructions_add (m n : Nat) (s : State) : processInstructions (m + n) s =
    if (processInstructions m s).2 = .ok then processInstructions n (processInstructions m s).1
    else processInstructions m s := by
  induction m generalizing s with
  | zero => rw [Nat.zero_add]; rfl
  | succ m ih =>
    rw [Nat.succ_add]
    cases hs : step s with
    | next t => simp only [processInstructions_succ_of_next hs, ih t]
    | fault f => simp [processInstructions_succ_of_fault hs]
    | refused r => simp [processInstructions_succ_of_refused hs]

/-- A run that faults ends, after the steps before the faulting one, where that one faults (R408). -/
theorem step_of_processInstructions_fault {n : Nat} {s u : State} {f : Fault}
    (h : processInstructions n s = (u, .fault f)) :
    step u = .fault f ∧ ∃ k, k < n ∧ processInstructions k s = (u, .ok) := by
  induction n generalizing s with
  | zero => cases h
  | succ n ih =>
    cases hs : step s with
    | next t =>
      obtain ⟨hu, k, hk, hrun⟩ := ih (processInstructions_succ_of_next hs n ▸ h)
      exact ⟨hu, k + 1, Nat.succ_lt_succ hk, (processInstructions_succ_of_next hs k).trans hrun⟩
    | fault g =>
      cases (processInstructions_succ_of_fault hs n).symm.trans h
      exact ⟨hs, 0, n.succ_pos, rfl⟩
    | refused r => cases (processInstructions_succ_of_refused hs n).symm.trans h

/-- Settles O55: by the equations of the counted run for each answer of its first step. -/
theorem countedRunStopsAtFirstFault : Obligations.CountedRunStopsAtFirstFault :=
  ⟨fun _ => rfl, fun n _ _ h => processInstructions_succ_of_next h n, processInstructions_add,
    fun _ _ _ _ => step_of_processInstructions_fault, fun n _ _ h => processInstructions_succ_of_fault h n⟩

end Sys2Proof.Machine
end

section
/-! PROOFS. The loads and stores of spec/41_load_store.md: what the shared meaning does (`loadReg_next`, `storeReg_next`) holds of
every form that runs it. -/

namespace Sys2Proof.Machine

open Sys2Proof.Claims

/-- A form that runs the shared load is a load of its opcode and length. -/
theorem loads_of_exec_eq {i : Instr} {r : Reg} {o : Operand} {s : State} {op : Byte} {len : Nat}
    (he : exec i s = loadReg r o s) (hop : i.opcode = op) (hlen : o.mode.length = len) : Loads r i op len o s := by
  subst hlen
  exact ⟨hop, _, he, loadReg_next rfl⟩

/-- A form that runs the shared store is a store of its opcode and length. -/
theorem stores_of_exec_eq {i : Instr} {r : Reg} {m : MemMode} {s : State} {op : Byte} {len : Nat}
    (he : exec i s = storeReg r m s) (hop : i.opcode = op) (hlen : m.mode.length = len) : Stores r i op len m s := by
  subst hlen
  exact ⟨hop, _, he, storeReg_next rfl⟩

/-- Settles O21: each form runs the shared load into A on its operand. -/
theorem ldaLoadsA : Obligations.LdaLoadsA := fun s v b w =>
  ⟨loads_of_exec_eq (exec_ldaImm v s) rfl rfl,
    loads_of_exec_eq (exec_ldaZp b s) rfl rfl,
    loads_of_exec_eq (exec_ldaZpX b s) rfl rfl,
    loads_of_exec_eq (exec_ldaAbs w s) rfl rfl,
    loads_of_exec_eq (exec_ldaAbsX w s) rfl rfl,
    loads_of_exec_eq (exec_ldaAbsY w s) rfl rfl,
    loads_of_exec_eq (exec_ldaIndX b s) rfl rfl,
    loads_of_exec_eq (exec_ldaIndY b s) rfl rfl⟩

/-- Settles O22: each form runs the shared load into X or Y on its operand. -/
theorem ldxAndLdyLoadTheirRegister : Obligations.LdxAndLdyLoadTheirRegister := fun s v b w =>
  ⟨loads_of_exec_eq (exec_ldxImm v s) rfl rfl,
    loads_of_exec_eq (exec_ldxZp b s) rfl rfl,
    loads_of_exec_eq (exec_ldxZpY b s) rfl rfl,
    loads_of_exec_eq (exec_ldxAbs w s) rfl rfl,
    loads_of_exec_eq (exec_ldxAbsY w s) rfl rfl,
    loads_of_exec_eq (exec_ldyImm v s) rfl rfl,
    loads_of_exec_eq (exec_ldyZp b s) rfl rfl,
    loads_of_exec_eq (exec_ldyZpX b s) rfl rfl,
    loads_of_exec_eq (exec_ldyAbs w s) rfl rfl,
    loads_of_exec_eq (exec_ldyAbsX w s) rfl rfl⟩

/-- Settles O23: each form runs the shared store of its register to its effective address, and 0x89 is an illegal opcode. -/
theorem storesWriteTheirRegister : Obligations.StoresWriteTheirRegister := fun s b w =>
  ⟨decodeOpcode_eq_none_iff_mem_illegalOpcodes.mpr (by decide),
    stores_of_exec_eq (exec_staZp b s) rfl rfl,
    stores_of_exec_eq (exec_staZpX b s) rfl rfl,
    stores_of_exec_eq (exec_staAbs w s) rfl rfl,
    stores_of_exec_eq (exec_staAbsX w s) rfl rfl,
    stores_of_exec_eq (exec_staAbsY w s) rfl rfl,
    stores_of_exec_eq (exec_staIndX b s) rfl rfl,
    stores_of_exec_eq (exec_staIndY b s) rfl rfl,
    stores_of_exec_eq (exec_stxZp b s) rfl rfl,
    stores_of_exec_eq (exec_stxZpY b s) rfl rfl,
    stores_of_exec_eq (exec_stxAbs w s) rfl rfl,
    stores_of_exec_eq (exec_styZp b s) rfl rfl,
    stores_of_exec_eq (exec_styZpX b s) rfl rfl,
    stores_of_exec_eq (exec_styAbs w s) rfl rfl⟩

end Sys2Proof.Machine
end

section
/-! PROOFS. The transfers of spec/42_transfer.md: what the shared meaning does (`transferReg_next`) holds of the five that set N and
Z; TXS is a register write and the generic advance. -/

namespace Sys2Proof.Machine

open Sys2Proof.Claims

/-- An instruction that runs the shared transfer is a transfer of its opcode. -/
theorem transfers_of_exec_eq {i : Instr} {d r : Reg} {s : State} {op : Byte}
    (he : exec i s = transferReg d r s) (hop : i.opcode = op) : Transfers d r i op s :=
  ⟨hop, _, he, transferReg_next rfl⟩

/-- TXS has a meaning of its own: the register write of SP, then the advance, without `SetNZ` (R605). -/
theorem txs_answers (s : State) :
    Answers .txs s fun t => t.sp = s.x ∧ t.pc = s.pc + 1 ∧ Keeps s t [.SP] [] [] :=
  ⟨_, exec_txs s, rfl, rfl, (keeps_setReg s .SP s.x).advance .implicit⟩

/-- Settles O24: five run the shared transfer on their registers, and TXS its own meaning (`txs_answers`). -/
theorem transfersCopyTheirSource : Obligations.TransfersCopyTheirSource := fun s =>
  ⟨transfers_of_exec_eq (exec_tax s) rfl,
    transfers_of_exec_eq (exec_tay s) rfl,
    transfers_of_exec_eq (exec_txa s) rfl,
    transfers_of_exec_eq (exec_tya s) rfl,
    transfers_of_exec_eq (exec_tsx s) rfl,
    rfl, txs_answers s⟩

end Sys2Proof.Machine
end

section
/-! PROOFS. The arithmetic of spec/43_arithmetic.md, on numbers: the sum ADC and SBC share, the compare, and the two forms of the
overflow (R701, R702, R706). What the shared meaning does holds of every form that runs it. -/

namespace Sys2Proof.Machine

open Sys2Proof.Claims

theorem addSum_lt (a m : Byte) (c : Bool) : addSum a m c < 512 := by
  have ha := a.isLt
  have hm := m.isLt
  have hc := c.toNat_le
  rw [addSum]
  omega

/-- Bit 8 of the 9-bit sum (R701). -/
theorem addCarry_iff (a m : Byte) (c : Bool) : addCarry a m c = true ↔ 256 ≤ addSum a m c := by
  have hlt := addSum_lt a m c
  rw [addCarry, Nat.testBit_eq_decide_div_mod_eq, decide_eq_true_iff]
  omega

theorem addOverflow_iff (a m : Byte) (c : Bool) :
    addOverflow a m c = true ↔ a.msb = m.msb ∧ a.msb ≠ (addResult a m c).msb := by
  simp [addOverflow, BitVec.msb_eq_getLsbD_last]

/-- The sum of ADC and SBC with the generic advance after it (R701), C and V as they read on numbers and signs. -/
theorem addToA_advance_effect (m : Byte) (md : Mode) {s t : State} (ht : t = (addToA m s).advance md) :
    t.a.toNat = addSum s.a m (s.flag .C) % 256 ∧ (t.flag .C = true ↔ 256 ≤ addSum s.a m (s.flag .C)) ∧
    (t.flag .V = true ↔ s.a.msb = m.msb ∧ s.a.msb ≠ t.a.msb) ∧ NZFollow t t.a ∧
    t.pc = nextPC s.pc md ∧ Keeps s t [.A] [.N, .Z, .C, .V] [] := by
  subst ht
  obtain ⟨ha, hC, hV, hNZ, hpc, hk⟩ := addToA_effect m s
  rw [State.advance_a, State.advance_pc, ha, hpc]
  exact ⟨BitVec.toNat_ofNat _ _, hC ▸ addCarry_iff _ _ _, hV ▸ addOverflow_iff _ _ _, hNZ, rfl,
    (hk.mono (by simp) (by decide) (by simp)).advance md⟩

theorem decimalGuard_of_decimal {s : State} (h : s.flag .D = true) (op : Byte) (e : State) :
    decimalGuard op s e = .fault (.unsupportedArithmeticMode s.pc op) := if_pos h

theorem decimalGuard_of_binary {s : State} (h : s.flag .D = false) (op : Byte) (e : State) :
    decimalGuard op s e = .next e := if_neg (by simp [h])

/-- A form that runs the shared ADC is an ADC of its opcode and length. -/
theorem adds_of_exec_eq {i : Instr} {o : Operand} {s : State} {op : Byte} {len : Nat}
    (he : exec i s = adc op o s) (hop : i.opcode = op) (hlen : o.mode.length = len) : Adds i op len o s := by
  subst hlen
  exact ⟨hop, fun hd => he.trans (decimalGuard_of_decimal hd op _),
    fun hd => ⟨_, he.trans (decimalGuard_of_binary hd op _), addToA_advance_effect _ _ rfl⟩⟩

/-- The complement of M and the carry add to `A - M - (1 - C)`, 256 too high (R702). -/
theorem addSum_sbcOperand (a m : Byte) (c : Bool) :
    (addSum a (sbcOperand m) c : Int) = a.toNat - m.toNat - (1 - c.toNat : Nat) + 256 := by
  have hm := m.isLt
  have hc := c.toNat_le
  rw [addSum, sbcOperand, BitVec.toNat_not]
  omega

/-- A form that runs the shared SBC is an SBC of its opcode and length. -/
theorem subtracts_of_exec_eq {i : Instr} {o : Operand} {s : State} {op : Byte} {len : Nat}
    (he : exec i s = sbc op o s) (hop : i.opcode = op) (hlen : o.mode.length = len) : Subtracts i op len o s := by
  subst hlen
  refine ⟨hop, fun hd => he.trans (decimalGuard_of_decimal hd op _),
    fun hd => ⟨_, he.trans (decimalGuard_of_binary hd op _), ?_⟩⟩
  obtain ⟨ha, hC, hrest⟩ := addToA_advance_effect (sbcOperand (readOperand o s)) o.mode (s := s) rfl
  have hsum := addSum_sbcOperand s.a (readOperand o s) (s.flag .C)
  exact ⟨by omega, hC.trans (by omega), hrest⟩

/-- A form that runs the shared compare is a compare of its opcode and length: it never looks at D. -/
theorem compares_of_exec_eq {i : Instr} {r : Reg} {o : Operand} {s : State} {op : Byte} {len : Nat}
    (he : exec i s = compareReg r o s) (hop : i.opcode = op) (hlen : o.mode.length = len) : Compares r i op len o s := by
  subst hlen
  refine ⟨hop, _, he, ?_⟩
  obtain ⟨hC, ⟨hZ, hN⟩, hpc, hk⟩ := compareReg_next (r := r) (o := o) (s := s) rfl
  refine ⟨?_, hZ.trans sub_eq_zero, ?_, hpc, hk.mono (by simp) (by decide) (by simp)⟩
  · rw [hC, compareCarry, decide_eq_true_iff]
  · have hm := (readOperand o s).isLt
    rw [hN, compareResult, BitVec.toNat_sub]
    omega

/-- The sign rule of the overflow says that the exact signed sum does not fit in 8 bits (R706). -/
theorem signs_iff_sum_out_of_range {a m r : Byte} {c : Bool} (hr : r.toNat = (a.toNat + m.toNat + c.toNat) % 256) :
    (a.msb = m.msb ∧ a.msb ≠ r.msb) ↔
      ¬ (-128 ≤ a.toInt + m.toInt + (c.toNat : Int) ∧ a.toInt + m.toInt + (c.toNat : Int) ≤ 127) := by
  have ha := a.isLt
  have hm := m.isLt
  have hc := c.toNat_le
  simp only [BitVec.msb_eq_decide, BitVec.toInt_eq_toNat_cond, decide_eq_decide, ne_eq]
  omega

/-- The signed reading of the complement. -/
theorem toInt_not_byte (m : Byte) : (~~~m).toInt = -m.toInt - 1 := by
  have hm := m.isLt
  rw [BitVec.toInt_eq_toNat_cond, BitVec.toInt_eq_toNat_cond, BitVec.toNat_not]
  omega

/-- What ADC does on numbers (R701) makes V the signed overflow (R706). -/
theorem overflowsAdding_of_adds {i : Instr} {op : Byte} {len : Nat} {o : Operand} {s : State} (h : Adds i op len o s) :
    OverflowsAdding i o s := by
  intro hd
  obtain ⟨-, -, hbinary⟩ := h
  obtain ⟨t, he, ha, -, hV, -⟩ := hbinary hd
  exact ⟨t, he, hV.trans (signs_iff_sum_out_of_range ha)⟩

/-- What SBC does on numbers (R702) makes V the signed overflow of the difference (R706): it is the sum with the complement. -/
theorem overflowsSubtracting_of_subtracts {i : Instr} {op : Byte} {len : Nat} {o : Operand} {s : State}
    (h : Subtracts i op len o s) : OverflowsSubtracting i o s := by
  intro hd
  obtain ⟨-, -, hbinary⟩ := h
  obtain ⟨t, he, ha, -, hV, -⟩ := hbinary hd
  have hm := (readOperand o s).isLt
  have hc := (s.flag .C).toNat_le
  have hsum : t.a.toNat = (s.a.toNat + (~~~readOperand o s).toNat + (s.flag .C).toNat) % 256 := by
    rw [BitVec.toNat_not]
    omega
  refine ⟨t, he, hV.trans ((signs_iff_sum_out_of_range hsum).trans ?_)⟩
  rw [toInt_not_byte]
  omega

/-- Settles O25: each form runs the shared ADC with its own opcode on its operand. -/
theorem adcAddsWithCarry : Obligations.AdcAddsWithCarry := fun s v b w =>
  ⟨adds_of_exec_eq (exec_adcImm v s) rfl rfl,
    adds_of_exec_eq (exec_adcZp b s) rfl rfl,
    adds_of_exec_eq (exec_adcZpX b s) rfl rfl,
    adds_of_exec_eq (exec_adcAbs w s) rfl rfl,
    adds_of_exec_eq (exec_adcAbsX w s) rfl rfl,
    adds_of_exec_eq (exec_adcAbsY w s) rfl rfl,
    adds_of_exec_eq (exec_adcIndX b s) rfl rfl,
    adds_of_exec_eq (exec_adcIndY b s) rfl rfl⟩

/-- Settles O26: each form runs the shared SBC with its own opcode on its operand. -/
theorem sbcSubtractsWithBorrow : Obligations.SbcSubtractsWithBorrow := fun s v b w =>
  ⟨subtracts_of_exec_eq (exec_sbcImm v s) rfl rfl,
    subtracts_of_exec_eq (exec_sbcZp b s) rfl rfl,
    subtracts_of_exec_eq (exec_sbcZpX b s) rfl rfl,
    subtracts_of_exec_eq (exec_sbcAbs w s) rfl rfl,
    subtracts_of_exec_eq (exec_sbcAbsX w s) rfl rfl,
    subtracts_of_exec_eq (exec_sbcAbsY w s) rfl rfl,
    subtracts_of_exec_eq (exec_sbcIndX b s) rfl rfl,
    subtracts_of_exec_eq (exec_sbcIndY b s) rfl rfl⟩

/-- Settles O27: V is the signed overflow wherever the result is the sum or the difference, and that is O25 and O26. -/
theorem overflowIsSignedOutOfRange : Obligations.OverflowIsSignedOutOfRange := by
  intro s v b w
  obtain ⟨aImm, aZp, aZpX, aAbs, aAbsX, aAbsY, aIndX, aIndY⟩ := adcAddsWithCarry s v b w
  obtain ⟨sImm, sZp, sZpX, sAbs, sAbsX, sAbsY, sIndX, sIndY⟩ := sbcSubtractsWithBorrow s v b w
  exact ⟨overflowsAdding_of_adds aImm,
    overflowsAdding_of_adds aZp,
    overflowsAdding_of_adds aZpX,
    overflowsAdding_of_adds aAbs,
    overflowsAdding_of_adds aAbsX,
    overflowsAdding_of_adds aAbsY,
    overflowsAdding_of_adds aIndX,
    overflowsAdding_of_adds aIndY,
    overflowsSubtracting_of_subtracts sImm,
    overflowsSubtracting_of_subtracts sZp,
    overflowsSubtracting_of_subtracts sZpX,
    overflowsSubtracting_of_subtracts sAbs,
    overflowsSubtracting_of_subtracts sAbsX,
    overflowsSubtracting_of_subtracts sAbsY,
    overflowsSubtracting_of_subtracts sIndX,
    overflowsSubtracting_of_subtracts sIndY⟩

/-- Settles O28: each form runs the shared compare of its register with its operand. -/
theorem comparesSetCarryZeroNegative : Obligations.ComparesSetCarryZeroNegative := fun s v b w =>
  ⟨compares_of_exec_eq (exec_cmpImm v s) rfl rfl,
    compares_of_exec_eq (exec_cmpZp b s) rfl rfl,
    compares_of_exec_eq (exec_cmpZpX b s) rfl rfl,
    compares_of_exec_eq (exec_cmpAbs w s) rfl rfl,
    compares_of_exec_eq (exec_cmpAbsX w s) rfl rfl,
    compares_of_exec_eq (exec_cmpAbsY w s) rfl rfl,
    compares_of_exec_eq (exec_cmpIndX b s) rfl rfl,
    compares_of_exec_eq (exec_cmpIndY b s) rfl rfl,
    compares_of_exec_eq (exec_cpxImm v s) rfl rfl,
    compares_of_exec_eq (exec_cpxZp b s) rfl rfl,
    compares_of_exec_eq (exec_cpxAbs w s) rfl rfl,
    compares_of_exec_eq (exec_cpyImm v s) rfl rfl,
    compares_of_exec_eq (exec_cpyZp b s) rfl rfl,
    compares_of_exec_eq (exec_cpyAbs w s) rfl rfl⟩

end Sys2Proof.Machine
end

section
/-! PROOFS. The logic instructions of spec/44_logic.md, on numbers: AND, ORA and EOR (R800 to R802) and BIT (R803). What the shared
meaning does (`logicA_next`, `bitTest_next`) holds of every form that runs it. -/

namespace Sys2Proof.Machine

open Sys2Proof.Claims

/-- A form that runs the shared logic meaning combines by `g`, when its operation on bytes is `g` on their numbers. -/
theorem combines_of_exec_eq {f : Byte → Byte → Byte} {g : Nat → Nat → Nat} {i : Instr} {o : Operand} {s : State} {op : Byte}
    {len : Nat} (hf : ∀ a m : Byte, (f a m).toNat = g a.toNat m.toNat) (he : exec i s = logicA f o s) (hop : i.opcode = op)
    (hlen : o.mode.length = len) : Combines g i op len o s := by
  subst hlen
  refine ⟨hop, _, he, ?_⟩
  obtain ⟨ha, hNZ, hpc, hk⟩ := logicA_next (f := f) (o := o) (s := s) rfl
  exact ⟨(congrArg BitVec.toNat ha).trans (hf _ _), ha ▸ hNZ, hpc, hk.mono (by simp) (by decide) (by simp)⟩

/-- A bit of a byte is set exactly when what stands at and below it is at least its weight. -/
theorem getLsbD_iff_two_pow_le (v : Byte) (k : Nat) : v.getLsbD k = true ↔ 2 ^ k ≤ v.toNat % 2 ^ (k + 1) := by
  have hlow : v.toNat % 2 ^ k < 2 ^ k := Nat.mod_lt _ (Nat.two_pow_pos k)
  rw [BitVec.getLsbD, Nat.testBit_eq_decide_div_mod_eq, decide_eq_true_iff, Nat.mod_pow_succ]
  rcases Nat.mod_two_eq_zero_or_one (v.toNat / 2 ^ k) with h | h <;> rw [h] <;> omega

theorem and_eq_zero_iff_toNat (a m : Byte) : a &&& m = 0x00 ↔ a.toNat &&& m.toNat = 0 := by
  rw [← BitVec.toNat_inj, BitVec.toNat_and]
  rfl

/-- A form that runs the shared BIT is a BIT of its opcode and length. -/
theorem testsBits_of_exec_eq {i : Instr} {o : Operand} {s : State} {op : Byte} {len : Nat}
    (he : exec i s = bitTest o s) (hop : i.opcode = op) (hlen : o.mode.length = len) : TestsBits i op len o s := by
  subst hlen
  refine ⟨hop, _, he, ?_⟩
  obtain ⟨hZ, hN, hV, hpc, hk⟩ := bitTest_next (o := o) (s := s) rfl
  have hm : (readOperand o s).toNat % 256 = (readOperand o s).toNat := Nat.mod_eq_of_lt (readOperand o s).isLt
  refine ⟨hZ.trans (and_eq_zero_iff_toNat _ _), ?_, ?_, hpc, hk⟩
  · rw [hN, ← hm]
    exact getLsbD_iff_two_pow_le _ 7
  · rw [hV]
    exact getLsbD_iff_two_pow_le _ 6

/-- Settles O29: each form runs the shared logic meaning on its operand, and the byte operation is the one on numbers. -/
theorem logicCombinesIntoA : Obligations.LogicCombinesIntoA := fun s v b w =>
  ⟨combines_of_exec_eq BitVec.toNat_and (exec_andImm v s) rfl rfl,
    combines_of_exec_eq BitVec.toNat_and (exec_andZp b s) rfl rfl,
    combines_of_exec_eq BitVec.toNat_and (exec_andZpX b s) rfl rfl,
    combines_of_exec_eq BitVec.toNat_and (exec_andAbs w s) rfl rfl,
    combines_of_exec_eq BitVec.toNat_and (exec_andAbsX w s) rfl rfl,
    combines_of_exec_eq BitVec.toNat_and (exec_andAbsY w s) rfl rfl,
    combines_of_exec_eq BitVec.toNat_and (exec_andIndX b s) rfl rfl,
    combines_of_exec_eq BitVec.toNat_and (exec_andIndY b s) rfl rfl,
    combines_of_exec_eq BitVec.toNat_or (exec_oraImm v s) rfl rfl,
    combines_of_exec_eq BitVec.toNat_or (exec_oraZp b s) rfl rfl,
    combines_of_exec_eq BitVec.toNat_or (exec_oraZpX b s) rfl rfl,
    combines_of_exec_eq BitVec.toNat_or (exec_oraAbs w s) rfl rfl,
    combines_of_exec_eq BitVec.toNat_or (exec_oraAbsX w s) rfl rfl,
    combines_of_exec_eq BitVec.toNat_or (exec_oraAbsY w s) rfl rfl,
    combines_of_exec_eq BitVec.toNat_or (exec_oraIndX b s) rfl rfl,
    combines_of_exec_eq BitVec.toNat_or (exec_oraIndY b s) rfl rfl,
    combines_of_exec_eq BitVec.toNat_xor (exec_eorImm v s) rfl rfl,
    combines_of_exec_eq BitVec.toNat_xor (exec_eorZp b s) rfl rfl,
    combines_of_exec_eq BitVec.toNat_xor (exec_eorZpX b s) rfl rfl,
    combines_of_exec_eq BitVec.toNat_xor (exec_eorAbs w s) rfl rfl,
    combines_of_exec_eq BitVec.toNat_xor (exec_eorAbsX w s) rfl rfl,
    combines_of_exec_eq BitVec.toNat_xor (exec_eorAbsY w s) rfl rfl,
    combines_of_exec_eq BitVec.toNat_xor (exec_eorIndX b s) rfl rfl,
    combines_of_exec_eq BitVec.toNat_xor (exec_eorIndY b s) rfl rfl⟩

/-- Settles O30: both forms run the shared BIT on their operand, and 0x89 is an illegal opcode. -/
theorem bitTestsTheOperand : Obligations.BitTestsTheOperand := fun s b w =>
  ⟨decodeOpcode_eq_none_iff_mem_illegalOpcodes.mpr (by decide),
    testsBits_of_exec_eq (exec_bitZp b s) rfl rfl,
    testsBits_of_exec_eq (exec_bitAbs w s) rfl rfl⟩

end Sys2Proof.Machine
end

section
/-! PROOFS. The shifts and rotates of spec/45_shift_rotate.md, on numbers (R900 to R903). What the shared meaning does
(`shiftTarget_next`) holds of every form that runs it. -/

namespace Sys2Proof.Machine

open Sys2Proof.Claims

/-- A form that runs the shared shift moves its target by `res` and C by `carry`, when its operations on bytes are these on their
numbers. -/
theorem shifts_of_exec_eq {f : Byte → Bool → Byte} {out : Byte → Bool} {res : Nat → Nat → Nat} {carry : Nat → Nat} {i : Instr}
    {tgt : Target} {s : State} {op : Byte} {len : Nat} (hf : ∀ v c, (f v c).toNat = res v.toNat c.toNat)
    (hout : ∀ v, (out v).toNat = carry v.toNat) (he : exec i s = shiftTarget f out tgt s) (hop : i.opcode = op)
    (hlen : tgt.mode.length = len) : Shifts res carry i op len tgt s := by
  subst hlen
  refine ⟨hop, _, he, ?_⟩
  obtain ⟨hv, hC, hNZ, hpc, hk⟩ := shiftTarget_next (f := f) (out := out) (tgt := tgt) (s := s) rfl
  exact ⟨(congrArg BitVec.toNat hv).trans (hf _ _), (congrArg Bool.toNat hC).trans (hout _), by rwa [hv], hpc,
    hk.mono (by simp) (by decide) (by simp)⟩

/-- Bit 7 of a byte as a number (R900, R902). -/
theorem leftCarry_toNat (v : Byte) : (leftCarry v).toNat = v.toNat / 128 := by
  have hv := v.isLt
  rw [leftCarry, BitVec.getLsbD, Nat.toNat_testBit]
  omega

/-- Bit 0 of a byte as a number (R901, R903). -/
theorem rightCarry_toNat (v : Byte) : (rightCarry v).toNat = v.toNat % 2 := by
  rw [rightCarry, BitVec.getLsbD, Nat.toNat_testBit, pow_zero, Nat.div_one]

theorem aslResult_toNat (v : Byte) (c : Bool) : (aslResult v c).toNat = 2 * v.toNat % 256 := by
  rw [aslResult, BitVec.toNat_shiftLeft, Nat.shiftLeft_eq, mul_comm, pow_one]

theorem lsrResult_toNat (v : Byte) (c : Bool) : (lsrResult v c).toNat = v.toNat / 2 := by
  rw [lsrResult, BitVec.toNat_ushiftRight, Nat.shiftRight_eq_div_pow, pow_one]

/-- The carry enters ROL at bit 0, which the shift leaves clear, so the or is a sum (R902). -/
theorem rolResult_toNat (v : Byte) (c : Bool) : (rolResult v c).toNat = (2 * v.toNat + c.toNat) % 256 := by
  have hc := c.toNat_lt
  have hbit : (if c then 0x01 else 0x00 : Byte).toNat = c.toNat := by cases c <;> rfl
  have hshift : 2 * v.toNat % 256 = 2 ^ 1 * (v.toNat % 128) := by omega
  have hsum := Nat.two_pow_add_eq_or_of_lt (i := 1) hc (v.toNat % 128)
  calc (rolResult v c).toNat = (2 * v.toNat % 256) ||| c.toNat := by
        rw [rolResult, BitVec.toNat_or, hbit, ← aslResult_toNat v c, aslResult]
    _ = 2 ^ 1 * (v.toNat % 128) + c.toNat := by rw [hshift, hsum]
    _ = (2 * v.toNat + c.toNat) % 256 := by omega

/-- The carry enters ROR at bit 7, which the shift leaves clear, so the or is a sum (R903). -/
theorem rorResult_toNat (v : Byte) (c : Bool) : (rorResult v c).toNat = v.toNat / 2 + 128 * c.toNat := by
  have hv : v.toNat / 2 < 2 ^ 7 := Nat.div_lt_of_lt_mul v.isLt
  have hbit : (if c then 0x80 else 0x00 : Byte).toNat = 2 ^ 7 * c.toNat := by cases c <;> rfl
  calc (rorResult v c).toNat = 2 ^ 7 * c.toNat ||| v.toNat / 2 := by
        rw [rorResult, BitVec.toNat_or, hbit, ← lsrResult_toNat v c, lsrResult, Nat.or_comm]
    _ = 2 ^ 7 * c.toNat + v.toNat / 2 := (Nat.two_pow_add_eq_or_of_lt hv _).symm
    _ = v.toNat / 2 + 128 * c.toNat := Nat.add_comm _ _

/-- Settles O31: each form runs the shared shift on its target, and the byte operation is the one on numbers, without the old carry. -/
theorem aslAndLsrShift : Obligations.AslAndLsrShift := fun s b w =>
  ⟨shifts_of_exec_eq aslResult_toNat leftCarry_toNat (exec_aslAcc s) rfl rfl,
    shifts_of_exec_eq aslResult_toNat leftCarry_toNat (exec_aslZp b s) rfl rfl,
    shifts_of_exec_eq aslResult_toNat leftCarry_toNat (exec_aslZpX b s) rfl rfl,
    shifts_of_exec_eq aslResult_toNat leftCarry_toNat (exec_aslAbs w s) rfl rfl,
    shifts_of_exec_eq aslResult_toNat leftCarry_toNat (exec_aslAbsX w s) rfl rfl,
    shifts_of_exec_eq lsrResult_toNat rightCarry_toNat (exec_lsrAcc s) rfl rfl,
    shifts_of_exec_eq lsrResult_toNat rightCarry_toNat (exec_lsrZp b s) rfl rfl,
    shifts_of_exec_eq lsrResult_toNat rightCarry_toNat (exec_lsrZpX b s) rfl rfl,
    shifts_of_exec_eq lsrResult_toNat rightCarry_toNat (exec_lsrAbs w s) rfl rfl,
    shifts_of_exec_eq lsrResult_toNat rightCarry_toNat (exec_lsrAbsX w s) rfl rfl⟩

/-- Settles O32: each form runs the shared shift on its target, and the old carry enters the byte as a sum. -/
theorem rolAndRorRotate : Obligations.RolAndRorRotate := fun s b w =>
  ⟨shifts_of_exec_eq rolResult_toNat leftCarry_toNat (exec_rolAcc s) rfl rfl,
    shifts_of_exec_eq rolResult_toNat leftCarry_toNat (exec_rolZp b s) rfl rfl,
    shifts_of_exec_eq rolResult_toNat leftCarry_toNat (exec_rolZpX b s) rfl rfl,
    shifts_of_exec_eq rolResult_toNat leftCarry_toNat (exec_rolAbs w s) rfl rfl,
    shifts_of_exec_eq rolResult_toNat leftCarry_toNat (exec_rolAbsX w s) rfl rfl,
    shifts_of_exec_eq rorResult_toNat rightCarry_toNat (exec_rorAcc s) rfl rfl,
    shifts_of_exec_eq rorResult_toNat rightCarry_toNat (exec_rorZp b s) rfl rfl,
    shifts_of_exec_eq rorResult_toNat rightCarry_toNat (exec_rorZpX b s) rfl rfl,
    shifts_of_exec_eq rorResult_toNat rightCarry_toNat (exec_rorAbs w s) rfl rfl,
    shifts_of_exec_eq rorResult_toNat rightCarry_toNat (exec_rorAbsX w s) rfl rfl⟩

end Sys2Proof.Machine
end

section
/-! PROOFS. The increments and decrements of spec/46_increment.md, on numbers (R1000 to R1005). What the two shared meanings do
(`stepMem_next`, `stepReg_next`) holds of every form that runs them. -/

namespace Sys2Proof.Machine

open Sys2Proof.Claims

/-- A form that runs the shared step of memory moves its byte by `d`, when its operation on bytes does. -/
theorem stepsByte_of_exec_eq {d : Nat} {f : Byte → Byte} {i : Instr} {m : MemMode} {s : State} {op : Byte} {len : Nat}
    (hf : ∀ v, (f v).toNat = (v.toNat + d) % 256) (he : exec i s = stepMem f m s) (hop : i.opcode = op)
    (hlen : m.mode.length = len) : StepsByte d i op len m s := by
  subst hlen
  refine ⟨hop, _, he, ?_⟩
  obtain ⟨hv, hNZ, hpc, hk⟩ := stepMem_next (f := f) (m := m) (s := s) rfl
  exact ⟨(congrArg BitVec.toNat hv).trans (hf _), by rwa [hv], hpc, hk.mono (by simp) (by decide) (by simp)⟩

/-- An instruction that runs the shared step of a register moves it by `d`, when its operation on bytes does. -/
theorem stepsReg_of_exec_eq {d : Nat} {f : Byte → Byte} {i : Instr} {r : Reg} {s : State} {op : Byte}
    (hf : ∀ v, (f v).toNat = (v.toNat + d) % 256) (he : exec i s = stepReg f r s) (hop : i.opcode = op) :
    StepsReg d r i op s := by
  refine ⟨hop, _, he, ?_⟩
  obtain ⟨hv, hNZ, hpc, hk⟩ := stepReg_next (f := f) (r := r) (s := s) rfl
  exact ⟨(congrArg BitVec.toNat hv).trans (hf _), by rwa [hv], hpc, hk.mono (by simp) (by decide) (by simp)⟩

theorem byte_add_one_toNat (v : Byte) : (v + 1).toNat = (v.toNat + 1) % 256 := BitVec.toNat_add v 1

/-- On numbers, taking one from a byte adds 255 (R1001). -/
theorem byte_sub_one_toNat (v : Byte) : (v - 1).toNat = (v.toNat + 255) % 256 := by
  rw [BitVec.toNat_sub, Nat.add_comm]
  rfl

/-- Settles O33: each form runs the shared step of memory at its effective address, and the byte operation is the one on numbers. -/
theorem incAndDecStepMemory : Obligations.IncAndDecStepMemory := fun s b w =>
  ⟨by decide, by decide,
    stepsByte_of_exec_eq byte_add_one_toNat (exec_incZp b s) rfl rfl,
    stepsByte_of_exec_eq byte_add_one_toNat (exec_incZpX b s) rfl rfl,
    stepsByte_of_exec_eq byte_add_one_toNat (exec_incAbs w s) rfl rfl,
    stepsByte_of_exec_eq byte_add_one_toNat (exec_incAbsX w s) rfl rfl,
    stepsByte_of_exec_eq byte_sub_one_toNat (exec_decZp b s) rfl rfl,
    stepsByte_of_exec_eq byte_sub_one_toNat (exec_decZpX b s) rfl rfl,
    stepsByte_of_exec_eq byte_sub_one_toNat (exec_decAbs w s) rfl rfl,
    stepsByte_of_exec_eq byte_sub_one_toNat (exec_decAbsX w s) rfl rfl⟩

/-- Settles O34: each instruction runs the shared step of its register, and the byte operation is the one on numbers. -/
theorem indexRegistersStep : Obligations.IndexRegistersStep := fun s =>
  ⟨stepsReg_of_exec_eq byte_add_one_toNat (exec_inx s) rfl,
    stepsReg_of_exec_eq byte_add_one_toNat (exec_iny s) rfl,
    stepsReg_of_exec_eq byte_sub_one_toNat (exec_dex s) rfl,
    stepsReg_of_exec_eq byte_sub_one_toNat (exec_dey s) rfl⟩

end Sys2Proof.Machine
end

section
/-! PROOFS. The control transfers of spec/47_branch_jump.md: the branches to a signed offset (R1101 to R1108), JMP (R1109), and JSR
and RTS as the push and the pull of a word (R1110, R1111). -/

namespace Sys2Proof.Machine

open Sys2Proof.Claims

/-- The branch target on numbers, with the offset's signed value (R328). -/
theorem eaRelative_toNat (off : Byte) (s : State) :
    ((eaRelative off s).toNat : Int) = (s.pc.toNat + 2 + off.toInt) % 65536 := by
  have hoff : ((sext16 off).toNat : Int) = off.toInt % 65536 := by
    rw [sext16, BitVec.signExtend, BitVec.toNat_ofInt, Int.toNat_of_nonneg (Int.emod_nonneg _ (by decide))]
    rfl
  have hnext : (nextPC s.pc .relative).toNat = (s.pc.toNat + 2) % 65536 := nextPC_toNat s.pc .relative
  rw [eaRelative, BitVec.toNat_add, hnext, Int.natCast_emod, Int.natCast_add, hoff]
  omega

/-- A form that runs the shared branch on a flag and a value is a branch of its opcode. -/
theorem branches_of_exec_eq {f : Flag} {wanted : Bool} {i : Instr} {op off : Byte} {s : State}
    (he : exec i s = branchIf f wanted off s) (hop : i.opcode = op) : Branches f wanted i op off s := by
  refine ⟨hop, _, he, fun htaken => ?_, fun hnot => ?_, keeps_setPC s _⟩
  · rw [State.setPC_pc, if_pos (beq_iff_eq.mpr htaken), eaRelative_toNat]
  · rw [State.setPC_pc, if_neg (beq_iff_eq.not.mpr hnot)]
    exact nextPC_toNat s.pc .relative

/-- Settles O35: each form runs the shared branch on its flag and value. -/
theorem branchesGoToTheSignedOffset : Obligations.BranchesGoToTheSignedOffset := fun s off =>
  ⟨branches_of_exec_eq (exec_bpl off s) rfl,
    branches_of_exec_eq (exec_bmi off s) rfl,
    branches_of_exec_eq (exec_bvc off s) rfl,
    branches_of_exec_eq (exec_bvs off s) rfl,
    branches_of_exec_eq (exec_bcc off s) rfl,
    branches_of_exec_eq (exec_bcs off s) rfl,
    branches_of_exec_eq (exec_bne off s) rfl,
    branches_of_exec_eq (exec_beq off s) rfl⟩

/-- Under both readings the low byte is the one at the pointer (R325). -/
theorem lo8_indirectWith (wrap : Bool) (mem : Memory) (ptr : Addr) : lo8 (indirectWith wrap mem ptr) = mem.read ptr :=
  lo8_join _ _

/-- Without the wrap the high byte is the one after the pointer (R325). -/
theorem hi8_indirectWith_false (mem : Memory) (ptr : Addr) : hi8 (indirectWith false mem ptr) = mem.read (ptr + 1) := by
  rw [indirectWith, Bool.and_false, hi8_join]
  rfl

/-- With the wrap the high byte at a pointer $xxFF is the one at $xx00, 255 below the pointer (R325). -/
theorem hi8_indirectWith_true (mem : Memory) {ptr : Addr} (h : ptr.toNat % 256 = 255) :
    hi8 (indirectWith true mem ptr) = mem.read (ptr - 255) := by
  have hff : lo8 ptr = 0xFF := BitVec.eq_of_toNat_eq ((lo8_toNat ptr).trans h)
  have hpage : join (hi8 ptr) 0x00 + 255 = ptr := by
    apply BitVec.eq_of_toNat_eq
    rw [BitVec.toNat_add, join_toNat, hi8_toNat]
    show (ptr.toNat / 256 * 256 + 0 + 255) % 65536 = ptr.toNat
    omega
  rw [indirectWith, hff, eq_sub_of_add_eq hpage, hi8_join]
  rfl

/-- JMP Indirect goes to the word at its pointer (R1109), on numbers under both readings of `P_JMP_IND_WRAP`. -/
theorem jmpInd_answers (s : State) (w : Addr) : Answers (.jmpInd w) s fun t =>
    t.pc.toNat % 256 = (s.mem.read w).toNat ∧
    (w.toNat % 256 ≠ 255 → t.pc.toNat / 256 = (s.mem.read (w + 1)).toNat) ∧
    (w.toNat % 256 = 255 → Config.jmpIndWrap = false → t.pc.toNat / 256 = (s.mem.read (w + 1)).toNat) ∧
    (w.toNat % 256 = 255 → Config.jmpIndWrap = true → t.pc.toNat / 256 = (s.mem.read (w - 255)).toNat) ∧
    Keeps s t [] [] [] := by
  refine ⟨_, exec_jmpInd w s, ?_, fun hin => ?_, fun _ hwrap => ?_, fun hff hwrap => ?_, keeps_setPC s _⟩
  · rw [State.setPC_pc, ← lo8_toNat, eaIndirect, lo8_indirectWith]
  · rw [State.setPC_pc, ← hi8_toNat, eaIndirect, indirectWith_wrap_irrelevant s.mem hin _ false, hi8_indirectWith_false]
  · rw [State.setPC_pc, ← hi8_toNat, eaIndirect, hwrap, hi8_indirectWith_false]
  · rw [State.setPC_pc, ← hi8_toNat, eaIndirect, hwrap, hi8_indirectWith_true s.mem hff]

/-- Settles O36: Absolute sets PC to the operand, Indirect to the word at it (`jmpInd_answers`). -/
theorem jmpSetsPC : Obligations.JmpSetsPC := fun s w =>
  ⟨⟨rfl, _, exec_jmpAbs w s, rfl, keeps_setPC s w⟩, rfl, jmpInd_answers s w⟩

/-- The statements' stack byte is the byte SP designates (R104). -/
theorem stackByte_eq (s : State) (sp : Byte) : stackByte s sp = s.mem.read (stackAddr sp) := by
  have hsp := sp.isLt
  have haddr : BitVec.ofNat 16 (256 + sp.toNat) = stackAddr sp :=
    BitVec.eq_of_toNat_eq (by rw [stackAddr_toNat, BitVec.toNat_ofNat, Nat.mod_eq_of_lt (by omega)])
  rw [stackByte, haddr]

/-- JSR pushes the address of its own last byte (R1110). -/
theorem nextPC_absolute_sub_one (pc : Addr) : nextPC pc .absolute - 1 = pc + 2 := add_sub_assoc pc 3 1

/-- Settles O37: the meaning is the push of a word (`pushWord_effect`), PC + 2, and a jump. -/
theorem jsrPushesReturnAddressMinusOne : Obligations.JsrPushesReturnAddressMinusOne := by
  intro s w
  obtain ⟨hsp, hhi, hlo, -, hk⟩ := pushWord_effect s (s.pc + 2)
  refine ⟨rfl, (s.pushWord (s.pc + 2)).setPC w, ?_, ?_, ?_, ?_, rfl, hk.trans (keeps_setPC _ w)⟩
  · rw [exec_jsrAbs, nextPC_absolute_sub_one]
  · rw [stackByte_eq, State.setPC_mem, hhi]
  · rw [stackByte_eq, State.setPC_mem, hlo]
  · rw [State.setPC_sp, hsp, sub_sub]
    rfl

/-- Two pulls move SP up by two mod 256 (R215). -/
theorem State.pullWord_sp (s : State) : s.pullWord.sp = s.sp + 2 := add_assoc s.sp 1 1

/-- The word two pulls return, in the statements' stack bytes (R218). -/
theorem State.pulledWord_eq (s : State) : s.pulledWord = join (stackByte s (s.sp + 2)) (stackByte s (s.sp + 1)) := by
  rw [stackByte_eq, stackByte_eq, ← s.pullWord_sp]
  rfl

/-- Two pulls change SP alone (R215). -/
theorem keeps_pullWord (s : State) : Keeps s s.pullWord [.SP] [] [] :=
  ((keeps_pull s).trans (keeps_pull s.pull)).mono (by simp) (by simp) (by simp)

/-- Settles O38: the meaning is the pull of a word (`State.pulledWord_eq`) and a jump one past it. -/
theorem rtsPullsAndAddsOne : Obligations.RtsPullsAndAddsOne := by
  intro s
  refine ⟨rfl, _, exec_rts s, ?_, s.pullWord_sp, (keeps_pullWord s).trans (keeps_setPC _ _)⟩
  rw [State.setPC_pc, BitVec.toNat_add, s.pulledWord_eq, join_toNat]
  rfl

/-- Settles O44: RTS finds SP two below, so it pulls the two bytes JSR pushed, and neither writes any register but SP or any flag. -/
theorem rtsReturnsAfterJsr : Obligations.RtsReturnsAfterJsr := by
  intro s w
  obtain ⟨-, t, ht, hhi, hlo, htsp, -, hjsr⟩ := jsrPushesReturnAddressMinusOne s w
  obtain ⟨-, u, hu, hpc, husp, hrts⟩ := rtsPullsAndAddsOne t
  obtain ⟨hreg, hp, -⟩ := hjsr.trans hrts
  have hsp1 : t.sp + 1 = s.sp - 1 := by rw [htsp]; bv_omega
  have hsp2 : t.sp + 2 = s.sp := by rw [htsp, sub_add_cancel]
  have hback : u.pc = s.pc + 2 + 1 := by
    apply BitVec.eq_of_toNat_eq
    rw [hpc, hsp1, hsp2, hhi, hlo, ← join_toNat, join_hi_lo, BitVec.toNat_add (s.pc + 2) 1]
    rfl
  exact ⟨t, ht, u, hu, hback.trans (add_assoc s.pc 2 1), hreg .A (by decide), hreg .X (by decide), hreg .Y (by decide),
    husp.trans hsp2, BitVec.eq_of_getLsbD_eq fun k _ => hp k (by simp)⟩

end Sys2Proof.Machine
end

section
/-! PROOFS. The stack instructions of spec/48_stack.md (R1200 to R1203): PHA and PHP share one push, PLA and PLP one pull, and a
pull takes back what the push before it stored. -/

namespace Sys2Proof.Machine

open Sys2Proof.Claims

/-- A push and the generic advance (R214, R1200, R1201): the byte in the statements' stack byte, SP one down, PC one on. -/
theorem push_advance_effect (s : State) (v : Byte) :
    stackByte ((s.push v).advance .implicit) s.sp = v ∧ ((s.push v).advance .implicit).sp = s.sp - 1 ∧
    ((s.push v).advance .implicit).pc = s.pc + 1 ∧
    Keeps s ((s.push v).advance .implicit) [.SP] [] [stackAddr s.sp] := by
  obtain ⟨hsp, hbyte, -, hk⟩ := push_effect s v
  exact ⟨(stackByte_eq _ _).trans hbyte, hsp, rfl, hk.advance .implicit⟩

/-- The byte a pull returns, as a stack byte of the statements (R215). -/
theorem State.pulled_eq (s : State) : s.pulled = stackByte s (s.sp + 1) := (stackByte_eq s _).symm

/-- PLA changes A and SP, and Z and N, alone (R1202). -/
theorem keeps_pla (s : State) :
    Keeps s (((s.pull.setReg .A s.pulled).setNZ s.pulled).advance .implicit) [.A, .SP] [.N, .Z] [] :=
  (((keeps_pull s).trans ((keeps_setReg _ .A _).trans (keeps_setNZ _ _))).advance .implicit).mono (by simp) (by simp) (by simp)

/-- Settles O39: PHA is the shared push (`push_advance_effect`); PLA loads A from the shared pull and takes `SetNZ`. -/
theorem phaPushesAndPlaPullsA : Obligations.PhaPushesAndPlaPullsA := fun s =>
  ⟨⟨rfl, _, exec_pha s, push_advance_effect s s.a⟩,
    rfl, _, exec_pla s, s.pulled_eq, rfl, nzFollow_of_putNZ (p := s.p) rfl, rfl, keeps_pla s⟩

theorem phpByte_of_verbatim (p : Byte) (h : Config.phpB = .verbatim) : phpByte p = p := by rw [phpByte, h]; rfl

theorem phpByte_of_set (p : Byte) (h : Config.phpB = .set) : phpByte p = p ||| 0x10 := by rw [phpByte, h]; rfl

/-- A write of the whole of P takes every bit but bit 5 from the byte (R107). -/
theorem getLsbD_or_unusedBit_of_ne (v : Byte) {k : Nat} (h : k ≠ 5) : (v ||| unusedBit).getLsbD k = v.getLsbD k := by
  rw [BitVec.getLsbD_or, getLsbD_unusedBit, decide_eq_false h, Bool.or_false]

/-- A pull changes no register but SP. -/
theorem State.pull_reg_of_ne (s : State) {r : Reg} (h : r ≠ .SP) : s.pull.reg r = s.reg r := by rw [State.pull_reg, if_neg h]

/-- Settles O40: PHP is the shared push of the byte `P_PHP_B` selects; PLP writes the pulled byte to P whole, which forces bit 5
alone. -/
theorem phpPushesAndPlpPullsStatus : Obligations.PhpPushesAndPlpPullsStatus := by
  intro s
  obtain ⟨hbyte, hsp, hpc, hk⟩ := push_advance_effect s (phpByte s.p)
  refine ⟨⟨rfl, _, exec_php s, fun h => ?_, fun h => ?_, hsp, hpc, hk⟩,
    rfl, _, exec_plp s, getLsbD_or_unusedBit _, fun k _ h5 => ?_, rfl, rfl, fun r hr => ?_, fun _ => rfl⟩
  · rw [hbyte, phpByte_of_verbatim s.p h]
  · rw [hbyte, phpByte_of_set s.p h]
  · rw [← s.pulled_eq]
    exact getLsbD_or_unusedBit_of_ne s.pulled h5
  · rw [State.advance_reg, State.setP_reg, s.pull_reg_of_ne hr]

/-- Bytes with bit 5 set are equal if their other bits are. -/
theorem eq_of_bits_but_five {p v : Byte} (hp : p.getLsbD 5 = true) (hv : v.getLsbD 5 = true)
    (h : ∀ k, k < 8 → k ≠ 5 → p.getLsbD k = v.getLsbD k) : p = v := by
  apply BitVec.eq_of_getLsbD_eq
  intro k hk
  by_cases h5 : k = 5
  · rw [h5, hp, hv]
  · exact h k hk h5

/-- Settles O46: the push leaves SP one down, so the pull reads the byte it stored and brings SP back. -/
theorem pullsUndoPushes : Obligations.PullsUndoPushes := by
  refine ⟨fun s => ?_, fun s h5 => ?_⟩
  · obtain ⟨⟨-, t, ht, hbyte, htsp, htpc, hpha⟩, -⟩ := phaPushesAndPlaPullsA s
    obtain ⟨-, -, u, hu, hua, husp, -, hupc, hpla⟩ := phaPushesAndPlaPullsA t
    obtain ⟨hreg, -, -⟩ := hpha.trans hpla
    have hsp : t.sp + 1 = s.sp := by rw [htsp, sub_add_cancel]
    have hpc : u.pc = s.pc + 2 := by rw [hupc, htpc, add_assoc]; rfl
    exact ⟨t, ht, u, hu, by rw [hua, hsp, hbyte], hreg .X (by decide), hreg .Y (by decide), husp.trans hsp, hpc⟩
  · obtain ⟨⟨-, t, ht, hverbatim, hset, htsp, -, hphp⟩, -⟩ := phpPushesAndPlpPullsStatus s
    obtain ⟨-, -, u, hu, hu5, hbits, husp, -, hplp, -⟩ := phpPushesAndPlpPullsStatus t
    obtain ⟨hreg, -, -⟩ := hphp
    have hsp : t.sp + 1 = s.sp := by rw [htsp, sub_add_cancel]
    rw [hsp] at hbits
    refine ⟨t, ht, u, hu, fun hb => ?_, fun hb => ?_, husp.trans hsp, (hplp .A (by decide)).trans (hreg .A (by decide))⟩
    · exact eq_of_bits_but_five hu5 h5 (hverbatim hb ▸ hbits)
    · exact eq_of_bits_but_five hu5 (by rw [BitVec.getLsbD_or, h5, Bool.true_or]) (hset hb ▸ hbits)

end Sys2Proof.Machine
end

section
/-! PROOFS. BRK, RTI, the flag instructions and NOP (spec/49_system_flags.md R1300 to R1309). What the break entry and the return from
it do is said once (`enterBreak_effect`, `returnFromBreak_effect`). -/

namespace Sys2Proof.Machine

open Sys2Proof.Claims

/-- A word of memory on numbers, low byte first (R203). -/
theorem Memory.readWord_toNat (m : Memory) (a : Addr) : (m.readWord a).toNat = (m.read (a + 1)).toNat * 256 + (m.read a).toNat :=
  join_toNat _ _

/-- Settles O41: BRK is the break entry with the return address PC + 2. -/
theorem brkTakesTheBreakEntry : Obligations.BrkTakesTheBreakEntry := by
  intro s
  have htwo : s.sp - 1 - 1 = s.sp - 2 := sub_sub s.sp 1 1
  have hthree : s.sp - 2 - 1 = s.sp - 3 := sub_sub s.sp 2 1
  obtain ⟨hsp, hhi, hlo, hp, hI, hpc, hk⟩ := enterBreak_effect s (s.pc + 2)
  rw [htwo] at hsp hp hk
  refine ⟨rfl, _, exec_brk s, (stackByte_eq _ _).trans hhi, (stackByte_eq _ _).trans hlo, (stackByte_eq _ _).trans hp,
    hsp.trans hthree, hI, ?_, hk⟩
  rw [hpc, Memory.readWord_toNat]
  rfl

/-- Settles O42: RTI is the return from the break entry, which writes the pulled byte to P whole. -/
theorem rtiRestoresStatusAndPC : Obligations.RtiRestoresStatusAndPC := by
  intro s
  have htwo : s.sp + 1 + 1 = s.sp + 2 := add_assoc s.sp 1 1
  have hthree : s.sp + 2 + 1 = s.sp + 3 := add_assoc s.sp 2 1
  obtain ⟨hsp, hp, hpc, hmem, hreg⟩ := returnFromBreak_effect s
  rw [htwo, hthree] at hsp hpc
  refine ⟨rfl, _, exec_rti s, ?_, fun k _ h5 => ?_, ?_, hsp, hreg, fun a => by rw [hmem]⟩
  · rw [hp, getLsbD_or_unusedBit]
  · rw [hp, getLsbD_or_unusedBit_of_ne _ h5, stackByte_eq]
  · rw [hpc, join_toNat, stackByte_eq, stackByte_eq]

/-- Settles O45: RTI finds SP three below, so it pulls the three bytes BRK pushed, and neither writes A, X or Y. -/
theorem rtiReturnsAfterBrk : Obligations.RtiReturnsAfterBrk := by
  intro s
  obtain ⟨-, t, ht, hhi, hlo, hp, htsp, -, -, hregt, -, -⟩ := brkTakesTheBreakEntry s
  obtain ⟨-, u, hu, hu5, hbits, hpc, husp, hregu, -⟩ := rtiRestoresStatusAndPC t
  have hsp1 : t.sp + 1 = s.sp - 2 := by rw [htsp]; bv_omega
  have hsp2 : t.sp + 2 = s.sp - 1 := by rw [htsp]; bv_omega
  have hsp3 : t.sp + 3 = s.sp := by rw [htsp, sub_add_cancel]
  have hreg : ∀ r, r ≠ .SP → u.reg r = s.reg r := fun r hr =>
    (hregu r hr).trans (hregt r (List.mem_singleton.not.mpr hr))
  have hback : u.pc = s.pc + 2 := by
    apply BitVec.eq_of_toNat_eq
    rw [hpc, hsp2, hsp3, hhi, hlo, ← join_toNat, join_hi_lo]
  have hstatus : u.p = s.p ||| 0x30 := by
    rw [hsp1, hp] at hbits
    exact eq_of_bits_but_five hu5 (by rw [BitVec.getLsbD_or]; simp) hbits
  exact ⟨t, ht, u, hu, hback, hreg .A (by decide), hreg .X (by decide), hreg .Y (by decide), husp.trans hsp3, hstatus⟩

/-- An instruction that runs the shared flag write is one of its opcode. -/
theorem writesFlag_of_exec_eq {f : Flag} {v : Bool} {i : Instr} {op : Byte} {s : State}
    (he : exec i s = writeFlag f v s) (hop : i.opcode = op) : WritesFlag f v i op s :=
  ⟨hop, _, he, writeFlag_next rfl⟩

/-- Settles O43: seven run the shared flag write on their flag and value, and NOP the generic advance alone. -/
theorem flagInstructionsWriteOneFlag : Obligations.FlagInstructionsWriteOneFlag := fun s =>
  ⟨writesFlag_of_exec_eq (exec_clc s) rfl,
    writesFlag_of_exec_eq (exec_sec s) rfl,
    writesFlag_of_exec_eq (exec_cli s) rfl,
    writesFlag_of_exec_eq (exec_sei s) rfl,
    writesFlag_of_exec_eq (exec_cld s) rfl,
    writesFlag_of_exec_eq (exec_sed s) rfl,
    writesFlag_of_exec_eq (exec_clv s) rfl,
    rfl, _, exec_nop s, rfl, keeps_setPC s _⟩

end Sys2Proof.Machine
end

section
/-! PROOFS. Construction, `Reset` and `LoadProgram` (spec/70_reset_and_hazards.md R1500 to R1504). -/

namespace Sys2Proof.Machine

/-- Settles O12: reset memory is canonical, and P is 0x24. -/
theorem resetMeetsTheInvariant : Obligations.ResetMeetsTheInvariant := ⟨Memory.wf_reset, by decide⟩

/-- Settles O14: the memory half of the invariant the reachable states have. -/
theorem memoryIsCanonicalInReachableStates : Obligations.MemoryIsCanonicalInReachableStates := by
  intro s hs
  obtain ⟨hmem, -⟩ := hs.inv
  exact hmem

/-- P after `Reset` is 0x24: I is set and no other named flag (R1502). -/
theorem resetBlock_flag (s : State) (f : Flag) : (resetBlock s).flag f = decide (f = .I) := by
  show getFlag 0x24 f = decide (f = .I)
  cases f <;> decide

/-- Bit 5 of 0x24 is set (R107). -/
theorem resetBlock_bit_five (s : State) : (resetBlock s).p.getLsbD 5 = true := show (0x24 : Byte).getLsbD 5 = true by decide

/-- Settles O52: `Reset` writes every register and reads only memory, which it leaves, so a second one writes the same. -/
theorem resetWritesEveryRegister : Obligations.ResetWritesEveryRegister := fun s =>
  ⟨Memory.readWord_toNat s.mem resetVector, rfl, rfl, rfl, rfl, resetBlock_flag s, resetBlock_bit_five s, rfl, rfl⟩

/-- Every word of a zeroed memory is 0x0000 (R1500). -/
theorem Memory.readWord_nil (a : Addr) : Memory.readWord [] a = 0x0000 := show join 0x00 0x00 = 0x0000 by decide

/-- Settles O53: the vector of a zeroed memory holds 0x0000, and `Reset` keeps no register of the draw. -/
theorem resetStateIsResetAfterConstruction : Obligations.ResetStateIsResetAfterConstruction := by
  intro a x y sp pc p
  simp only [resetBlock, construct, State.readWord, Memory.readWord_nil, State.reset]

theorem loadProgram_of_not_fits {origin : Addr} {bytes : List Byte} (h : 65536 < origin.toNat + bytes.length)
    (entryPoint : Addr) (s : State) :
    loadProgram bytes origin entryPoint s = .fault (.outOfMemory origin bytes.length) := by
  simp [loadProgram, fits, Nat.not_le.mpr h]

theorem loadProgram_of_fits {origin : Addr} {bytes : List Byte} (h : origin.toNat + bytes.length ≤ 65536)
    (entryPoint : Addr) (s : State) : loadProgram bytes origin entryPoint s =
      .next (resetBlock { s with mem := (s.mem.writeWord resetVector entryPoint).writeBytes origin bytes }) := by
  simp [loadProgram, fits, h]

/-- All cases of a byte read after a word write (R204). -/
theorem Memory.read_writeWord (m : Memory) (a b v : Addr) :
    (m.writeWord a v).read b = if b = a then lo8 v else if b = a + 1 then hi8 v else m.read b := by
  split
  · next h => rw [h, Memory.read_writeWord_lo]
  · next hlo =>
    split
    · next h => rw [h, Memory.read_writeWord_hi]
    · next hhi => exact Memory.read_writeWord_other m v hlo hhi

/-- Settles O54: the byte writes come after the vector's (R1504), so only the bytes outside them still read as the vector write
left them (`Memory.read_writeWord`); `Reset` then reads the vector. -/
theorem loadProgramLoadsAndResets : Obligations.LoadProgramLoadsAndResets := by
  intro bytes origin entryPoint s
  refine ⟨fun h => loadProgram_of_not_fits h entryPoint s, fun h =>
    ⟨_, loadProgram_of_fits h entryPoint s, ?_, fun a ha => ?_, rfl, rfl, rfl, rfl, rfl, Memory.readWord_toNat _ resetVector⟩⟩
  · exact Memory.read_writeBytes_inside bytes _ origin h
  · exact (Memory.read_writeBytes_outside bytes _ origin h a ha).trans (Memory.read_writeWord s.mem resetVector a entryPoint)

end Sys2Proof.Machine
end

section
/-! PROOFS. Faults (spec/60_exceptions.md R1400 to R1408): which a step and a load raise, that nothing is refused, and that a
transaction that faults keeps the state. -/

namespace Sys2Proof

/-- A form builds, of any two bytes after the opcode, an instruction it makes. -/
theorem Form.exists_makes_build (F : Form) (b1 b2 : Byte) : ∃ f, F.Makes f (F.build b1 b2) := by
  cases F with
  | plain i => exact ⟨_, .plain i⟩
  | byte g => exact ⟨_, .byte g b1⟩
  | word g => exact ⟨_, .word g (join b2 b1)⟩

/-- The engine's decoder gives an instruction of the opcode it read. -/
theorem opcode_of_decodeAt {op b1 b2 : Byte} {i : Instr} (h : decodeAt op b1 b2 = some i) : i.opcode = op := by
  obtain ⟨r, hrow, rfl⟩ := Option.map_eq_some_iff.mp h
  obtain ⟨f, hm⟩ := Form.exists_makes_build r.form b1 b2
  obtain ⟨hop, -⟩ := exists_opcodeRow_makes_iff.mp ⟨r, hrow, hm⟩
  exact hop

end Sys2Proof

namespace Sys2Proof.Machine

/-- The two answers of an instruction: the fault of ADC and SBC with D = 1, a next state otherwise (R406, R1402). -/
theorem exec_cases (i : Instr) (s : State) :
    (((i.mnemonic = .ADC ∨ i.mnemonic = .SBC) ∧ s.flag .D = true) ∧
      exec i s = .fault (.unsupportedArithmeticMode s.pc i.opcode)) ∨
    (¬ ((i.mnemonic = .ADC ∨ i.mnemonic = .SBC) ∧ s.flag .D = true) ∧ ∃ t, exec i s = .next t) := by
  obtain ⟨hnext, hfault⟩ := everyInstructionCompletesOutsideDecimal i s
  by_cases h : (i.mnemonic = .ADC ∨ i.mnemonic = .SBC) ∧ s.flag .D = true
  · exact .inl ⟨h, hfault h.1 h.2⟩
  · exact .inr ⟨h, hnext h⟩

theorem exec_eq_fault_iff {i : Instr} {s : State} {f : Fault} : exec i s = .fault f ↔
    (i.mnemonic = .ADC ∨ i.mnemonic = .SBC) ∧ s.flag .D = true ∧ f = .unsupportedArithmeticMode s.pc i.opcode := by
  rcases exec_cases i s with ⟨⟨hmn, hd⟩, he⟩ | ⟨h, t, he⟩
  · rw [he, Host.Outcome.fault.injEq, eq_comm]
    exact ⟨fun hf => ⟨hmn, hd, hf⟩, fun ⟨_, _, hf⟩ => hf⟩
  · rw [he]
    exact ⟨nofun, fun ⟨hmn, hd, _⟩ => absurd ⟨hmn, hd⟩ h⟩

/-- The faults of a step (R1401, R1402): that of an illegal opcode, or that of the instruction decoded. -/
theorem step_eq_fault_iff {s : State} {f : Fault} : step s = .fault f ↔
    (decodeOpcode (s.mem.read s.pc) = none ∧ f = .unknownOpcode s.pc (s.mem.read s.pc)) ∨
    (∃ m d n, decodeOpcode (s.mem.read s.pc) = some (m, d, n) ∧ (m = .ADC ∨ m = .SBC) ∧ s.flag .D = true ∧
      f = .unsupportedArithmeticMode s.pc (s.mem.read s.pc)) := by
  rcases step_cases s with ⟨i, hi, hs⟩ | ⟨hrow, hs⟩
  · have hop : i.opcode = s.mem.read s.pc := opcode_of_decodeAt hi
    have hdec : decodeOpcode (s.mem.read s.pc) = some (i.mnemonic, i.mode, i.mode.length) :=
      decodeOpcode_eq_some_iff.mpr ⟨hop ▸ i.opcodeOf_eq, rfl⟩
    rw [hs, exec_eq_fault_iff, hop]
    simp [hdec]
  · have hdec : decodeOpcode (s.mem.read s.pc) = none := Option.map_eq_none_iff.mpr hrow
    rw [hs, Host.Outcome.fault.injEq, eq_comm]
    simp [hdec]

theorem step_ne_refused (s : State) (r : Refusal) : step s ≠ .refused r := by
  rcases step_cases s with ⟨i, -, hs⟩ | ⟨-, hs⟩
  · rcases exec_cases i s with ⟨-, he⟩ | ⟨-, t, he⟩ <;> simp [hs, he]
  · simp [hs]

theorem loadProgram_fault {bytes : List Byte} {origin entryPoint : Addr} {s : State} {f : Fault}
    (h : loadProgram bytes origin entryPoint s = .fault f) : f = .outOfMemory origin bytes.length := by
  rcases Nat.lt_or_ge 65536 (origin.toNat + bytes.length) with hlt | hle
  · rw [loadProgram_of_not_fits hlt] at h
    injection h with h
    exact h.symm
  · rw [loadProgram_of_fits hle] at h
    cases h

/-- Settles O9: a step faults at decode or in the decimal guard (`step_eq_fault_iff`), and a load in its check alone. -/
theorem stepFaultsExactly : Obligations.StepFaultsExactly :=
  ⟨fun _ _ => step_eq_fault_iff, step_ne_refused, fun _ _ _ _ _ => loadProgram_fault⟩

/-- A settled answer that is no next state leaves the state (R1406). -/
theorem settle_of_ne_ok {s : State} {a : Answer} (h : (settle s a).2 ≠ .ok) : (settle s a).1 = s := by
  cases a with
  | next t => exact absurd rfl h
  | fault | refused => rfl

theorem settle_ne_refused {a : Answer} (h : ∀ r, a ≠ .refused r) (s : State) (r : Refusal) :
    (settle s a).2 ≠ .refused r := by
  cases a with
  | next | fault => simp [settle]
  | refused q => exact absurd rfl (h q)

theorem loadProgram_ne_refused (bytes : List Byte) (origin entryPoint : Addr) (s : State) (r : Refusal) :
    loadProgram bytes origin entryPoint s ≠ .refused r := by
  rcases Nat.lt_or_ge 65536 (origin.toNat + bytes.length) with h | h
  · simp [loadProgram_of_not_fits h]
  · simp [loadProgram_of_fits h]

theorem copyBytes_ne_refused (origin : Addr) (bytes : List Byte) (s : State) (r : Refusal) :
    copyBytes origin bytes s ≠ .refused r := by
  rcases Nat.lt_or_ge 65536 (origin.toNat + bytes.length) with h | h
  · simp [copyBytes_of_not_fits h]
  · simp [copyBytes_of_fits h]

theorem processInstructions_ne_refused (count : Nat) (s : State) (r : Refusal) :
    (processInstructions count s).2 ≠ .refused r := by
  induction count generalizing s with
  | zero => simp [processInstructions]
  | succ n ih =>
    cases hs : step s with
    | next t => rw [processInstructions_succ_of_next hs]; exact ih t
    | fault f => simp [processInstructions_succ_of_fault hs]
    | refused q => exact absurd hs (step_ne_refused s q)

theorem transact_ne_refused (t : Transaction) (s : State) (r : Refusal) : (transact t s).2 ≠ .refused r := by
  cases t with
  | reset | writeU8 | writeU16 => simp [transact]
  | loadProgram bytes origin entryPoint => exact settle_ne_refused (loadProgram_ne_refused bytes origin entryPoint s) s r
  | processInstruction => exact settle_ne_refused (step_ne_refused s) s r
  | processInstructions count => exact processInstructions_ne_refused count s r
  | copyBytes origin bytes => exact settle_ne_refused (copyBytes_ne_refused origin bytes s) s r

/-- Every transaction but a counted run ends well or is settled with the state it began in (R1406). -/
theorem transact_of_ne_ok {t : Transaction} {s : State} (ht : ∀ n, t ≠ .processInstructions n)
    (h : (transact t s).2 ≠ .ok) : (transact t s).1 = s := by
  cases t with
  | reset | writeU8 | writeU16 => exact absurd rfl h
  | loadProgram | processInstruction | copyBytes => exact settle_of_ne_ok h
  | processInstructions count => exact absurd rfl (ht count)

/-- Settles O56: a transaction that can fault is settled, and no answer it settles is a refusal. -/
theorem failedTransactionLeavesTheState : Obligations.FailedTransactionLeavesTheState := fun t s =>
  ⟨transact_of_ne_ok, fun _ _ => rfl, fun _ _ => rfl, rfl, transact_ne_refused t s⟩

end Sys2Proof.Machine
end
